-- ==== Sys2Proof/Word.lean ====
section
/-!
DEFINITION. The word types of the core: the 32-bit word of the host port and of the general registers
(10_state.md R21, R32), and the byte of the buffer (20_memory.md R60).
-/

namespace Sys2Proof

/-- A 32-bit word: a command word, the data of a host access, a general register. -/
abbrev Word := BitVec 32

/-- A byte of the buffer, or a kind tag. -/
abbrev Byte := BitVec 8

end Sys2Proof
end

