-- ==== Sys2Proof/Config.lean ====
section
/-!
DEFINITION. The implementation parameters of 00_scope.md R7, and the type of the parameter `LAYOUT`.
The value of `LAYOUT` stands in Sys2Proof/Machine/AirTrackCodec.lean and the value of `REGISTRY` in
Sys2Proof/Machine/Envelope.lean, beside the functions that take them as arguments. The spec leaves no value of a
command undefined, so no parameter is a free value.
-/

namespace Sys2Proof

namespace Config

/-- `WMAX`: the largest field width in bits. -/
abbrev wMax : Nat := 32

/-- `NFIELDS`: entries of the field table. -/
abbrev nFields : Nat := 8

/-- `BUF_BYTES`: bytes of `BUF`. -/
abbrev bufBytes : Nat := 32

/-- `KIND_AIRTRACK`: the kind tag of the air-track message. -/
abbrev kindAirtrack : Byte := 0x32

/-- `BODY_BITS`: the sum of the layout's widths. -/
abbrev bodyBits : Nat := 117

/-- `BODY_BYTES`: bytes of a body. -/
abbrev bodyBytes : Nat := 15

/-- `PAD_BITS`: zero bits after the last field of a body. -/
abbrev padBits : Nat := 3

/-- `FRAME_BYTES`: the kind byte and the body. -/
abbrev frameBytes : Nat := 16

/-- `DEG_UNITS`: register units per degree in `GLAT` and `GLON`. -/
abbrev degUnits : Int := 10000000

/-- `ALT_UNITS`: register units per metre in `GALT`. -/
abbrev altUnits : Int := 1000

/-- `LATLON_MAX_CODE`: 2^19 - 1. -/
abbrev latLonMaxCode : Int := 524287

/-- `ALT_MAX_CODE`: 2^14 - 1. -/
abbrev altMaxCode : Int := 16383

/-- `FT_PER_M` is the rational 328084/100000; its numerator. -/
abbrev feetPerMetreNum : Int := 328084

/-- `FT_PER_M` is the rational 328084/100000; its denominator. -/
abbrev feetPerMetreDen : Int := 100000

/-- `ALT_STEP_FT`: feet per altitude step. -/
abbrev altStepFeet : Int := 25

/-- `ALT_MAX_UNITS`: the largest in-domain `GALT`. -/
abbrev altMaxUnits : Int := 124838456

end Config

/-- The eight fields of the air-track report, in the names of the source's data model (10_state.md R23, R36). -/
inductive FieldName where
  | track
  | latitudePacked
  | longitudePacked
  | trackNumber
  | altitudePacked
  | parity
  | speedMs
  | headingCdeg
  deriving DecidableEq, Repr

/-- The width in bits of each field, which is the width of the report register that holds it (10_state.md R23). -/
def FieldName.width : FieldName → Nat
  | .track => 16
  | .latitudePacked => 19
  | .longitudePacked => 19
  | .trackNumber => 12
  | .altitudePacked => 14
  | .parity => 5
  | .speedMs => 16
  | .headingCdeg => 16

/-- The parameter `LAYOUT` (00_scope.md R7, 30_encoding.md R95): which field comes where on the wire, first field
first. The width of an entry is `FieldName.width`, so a layout is the source's ordered (name, width) list. DESIGN CHOICE (log 8), safe. -/
abbrev Layout := List FieldName

end Sys2Proof
end

