-- ==== Sys2Proof/Syntax.lean ====
section
/-!
DEFINITION. The syntax of the core: the values its functions work on (widths, fields, reports, messages, errors), the
instructions (one constructor per row of spec/opcode_table.json), and the form their encodings take.
-/

namespace Sys2Proof

/-- A legal field width: 1 to 32 bits (20_memory.md R65). No other width exists for `pack` and `unpack`
(40_bitpacker.md R123), so none can be built. DEDUCED (log 7), safe. -/
structure Width where
  bits : Nat
  pos : 1 ≤ bits
  le : bits ≤ Config.wMax
  deriving DecidableEq, Repr

/-- A field: an unsigned value and the number of bits it takes in the stream. That the value fits the width is the
precondition of `pack` (40_bitpacker.md R120, R123): outside it `pack` has no value, so no other field can be built. -/
structure BitField where
  width : Width
  value : Nat
  fits : value < 2 ^ width.bits
  deriving DecidableEq, Repr

/-- The packed struct `AirTrackReport` (10_state.md R36): eight unsigned fields, each of exactly its width. -/
structure Report where
  track : BitVec 16
  latitudePacked : BitVec 19
  longitudePacked : BitVec 19
  trackNumber : BitVec 12
  altitudePacked : BitVec 14
  parity : BitVec 5
  speedMs : BitVec 16
  headingCdeg : BitVec 16
  deriving DecidableEq, Repr

/-- A message: a tagged union with one variant for each kind, the variant of a kind carrying that kind's payload (10_state.md
R24, R36). It is written over the type of kinds, so that a new kind is a new variant (43_envelope.md R215). -/
structure MessageOf {Kind : Type} (Payload : Kind → Type) where
  kind : Kind
  payload : Payload kind

/-- The kinds of message of this hardware: the source's single variant (10_state.md R24). -/
inductive MessageKind where
  | airTrack
  deriving DecidableEq, Repr

/-- What a message of each kind carries (10_state.md R36). -/
abbrev MessageKind.Payload : MessageKind → Type
  | .airTrack => Report

/-- The source's `Message` (10_state.md R24, R36). -/
abbrev Message := MessageOf MessageKind.Payload

/-- The variant `AirTrack(Report)` (10_state.md R36). -/
abbrev MessageOf.airTrack (r : Report) : Message := ⟨.airTrack, r⟩

/-- The input of a quantizer that is out of its domain (60_exceptions.md R253). -/
inductive GeoField where
  | latitude
  | longitude
  | altitude
  deriving DecidableEq, Repr

/-- The operand register that BadOperand reports (60_exceptions.md R255). -/
inductive OperandDefect where
  /-- `NF` above 8; the value of `NF`. -/
  | nf (value : Word)
  /-- a width register outside 1..32; the index of the first one. -/
  | width (index : Nat)
  /-- `LEN` above 32; the value of `LEN`. -/
  | len (value : Word)
  deriving DecidableEq, Repr

/-- The errors of 60_exceptions.md R250. -/
inductive CmdError where
  | shortBuffer (neededBits availableBits : Nat)
  | unsupportedKind (tag : Byte)
  | quantizationOverflow (field : GeoField)
  | illegalCommand (word : Word)
  | badOperand (defect : OperandDefect)
  | fieldRange (index : Nat)
  deriving DecidableEq, Repr

/-- The capability pair of 43_envelope.md R215, over the payload of its kind. -/
structure Codec (Payload : Type) where
  encode : Payload → List Byte
  decode : List Byte → Except CmdError Payload

/-- An entry of the kind registry (30_encoding.md R97, 43_envelope.md R215): a tag, and the codec of the kind it stands for. -/
structure KindEntry {Kind : Type} (Payload : Kind → Type) where
  tag : Byte
  kind : Kind
  codec : Codec (Payload kind)

/-- The parameter `REGISTRY` (30_encoding.md R97): which kind tags have a codec. DESIGN CHOICE (log 8), safe. -/
abbrev Registry {Kind : Type} (Payload : Kind → Type) := List (KindEntry Payload)

/-- One constructor per row of spec/opcode_table.json. The thirteen commands have no operand field (30_encoding.md
R90, R93). The wire-format row `MSG.AIRTRACK` carries the eight fields of its pattern (30_encoding.md R96). -/
inductive Instr where
  | nop
  | clr
  | pack
  | unpack
  | qlat
  | qlon
  | qalt
  | qtrk
  | fromgeo
  | benc
  | bdec
  | menc
  | mdec
  | msgAirtrack (r : Report)
  deriving DecidableEq, Repr

/-- The two formats of spec/opcode_table.json: `C0`, one 32-bit command word (30_encoding.md R90), and `FRAME16`, the
bytes of a frame (30_encoding.md R96), the first byte first. -/
inductive Encoding where
  | command (w : Word)
  | frame (bytes : List Byte)
  deriving DecidableEq, Repr

end Sys2Proof
end

