-- ==== Sys2Proof/WellFormed.lean ====
section
/-!
DEFINITION. Well-formedness. An instruction word of the core has no operand field, so the one thing an instruction
carries that could be ill-formed is the field list of a frame: the precondition of `pack` on raw (value, width) pairs
(40_bitpacker.md R120, R123; 30_encoding.md R94). The checks on a layout and on a registry stand beside it.
-/

namespace Sys2Proof

/-- A width is legal when it is 1 to 32 (30_encoding.md R94). -/
def widthLegal (w : Nat) : Bool := 1 ≤ w && w ≤ Config.wMax

/-- A raw descriptor (value, width) is legal when its width is and the value fits (30_encoding.md R94). -/
def descriptorLegal (d : Nat × Nat) : Bool := widthLegal d.2 && d.1 < 2 ^ d.2

/-- The raw descriptors of a report, in the order of the source's table (30_encoding.md R95). -/
def Report.descriptors (r : Report) : List (Nat × Nat) :=
  [(r.track.toNat, 16), (r.latitudePacked.toNat, 19), (r.longitudePacked.toNat, 19), (r.trackNumber.toNat, 12),
    (r.altitudePacked.toNat, 14), (r.parity.toNat, 5), (r.speedMs.toNat, 16), (r.headingCdeg.toNat, 16)]

/-- An instruction is well-formed when every field it carries meets the precondition of `pack`. -/
def Instr.wf : Instr → Bool
  | .nop | .clr | .pack | .unpack | .qlat | .qlon | .qalt | .qtrk | .fromgeo | .benc | .bdec | .menc | .mdec => true
  | .msgAirtrack r => r.descriptors.all descriptorLegal

/-- A layout is well-formed when it lists every field exactly once: the air-track body has the eight fields of
10_state.md R23 in some order (00_scope.md R7). -/
def Layout.wf (l : Layout) : Bool :=
  l.length == Config.nFields && decide l.Nodup

/-- A registry is well-formed when no tag and no kind is registered twice, each kind being identified by a distinct kind
code (10_state.md R24). -/
def Registry.wf {Kind : Type} [DecidableEq Kind] {Payload : Kind → Type} (reg : Registry Payload) : Bool :=
  decide (reg.map (·.tag)).Nodup && decide (reg.map (·.kind)).Nodup

end Sys2Proof
end

