-- ==== Sys2Proof/Machine/BitStream.lean ====
section
/-!
DEFINITION. The bit packer of the functional layer (40_bitpacker.md section 1): the bit stream of a byte sequence,
`put_field`, `get_field`, `pack`, `unpack`; and the two equivalent forms of section 3, byte at a time (R131) and whole
number (R132). Byte sequences here have any length (20_memory.md R60).

The spec gives `put_field` and `get_field` no value outside their requirements (R121, R127). The Lean functions are total;
what they give there is the model's choice: DESIGN CHOICE (log 15), unsafe. No command reaches it.
-/

namespace Sys2Proof.Machine

/-- Stream bit `k` of `b`: bit 7 - (k mod 8) of byte k div 8 (20_memory.md R61). Past the end of `b` the spec has no stream
bit; there it is 0 here: DESIGN CHOICE (log 15), unsafe. -/
def streamBit (b : List Byte) (k : Nat) : Bool :=
  (b.getD (k / 8) 0).getLsbD (7 - k % 8)

/-- A byte with bit `pos` replaced by `x` (40_bitpacker.md R121). -/
def byteWithBit (byte : Byte) (pos : Nat) (x : Bool) : Byte :=
  if x then byte ||| (1#8 <<< pos) else byte &&& ~~~(1#8 <<< pos)

/-- `b` with stream bit `k` replaced by `x` (40_bitpacker.md R121, 20_memory.md R61). Past the end of `b`, where the spec has
no stream bit, `b` stays as it is: DESIGN CHOICE (log 15), unsafe. -/
def setStreamBit (b : List Byte) (k : Nat) (x : Bool) : List Byte :=
  b.modify (k / 8) fun byte => byteWithBit byte (7 - k % 8) x

/-- `put_field` (40_bitpacker.md R121): the `w` bits of `v`, most significant first, at stream bits c .. c+w-1. R121 requires
c+w <= 8*len, 1 <= w <= 32 and v < 2^w, and gives no value otherwise. There this function writes the low `w` bits of `v`,
none when `w` is 0, any number when `w` is above 32, and drops those past the end: DESIGN CHOICE (log 15), unsafe. -/
def putField (b : List Byte) (c v w : Nat) : List Byte :=
  (List.range w).foldl (fun b t => setStreamBit b (c + t) (v.testBit (w - 1 - t))) b

/-- `get_field` (40_bitpacker.md R127): the unsigned integer at stream bits c .. c+w-1, most significant first. R127 requires
c+w <= 8*len and 1 <= w <= 32, and gives no value otherwise. There this function reads bits past the end as 0 and takes any
width, 0 giving 0: DESIGN CHOICE (log 15), unsafe. -/
def getField (b : List Byte) (c w : Nat) : Nat :=
  (List.range w).foldl (fun v t => 2 * v + (streamBit b (c + t)).toNat) 0

/-- The sum of a list of widths, in bits. -/
def totalBits : List Width → Nat
  | [] => 0
  | w :: ws => w.bits + totalBits ws

/-- ceil(T / 8), the bytes that `T` bits take (40_bitpacker.md R120). -/
def bytesFor (bits : Nat) : Nat := (bits + 7) / 8

/-- The loop of `pack` (40_bitpacker.md R120), from the bit cursor `cur`. -/
def packFrom : List BitField → List Byte → Nat → List Byte
  | [], b, _ => b
  | f :: fs, b, cur => packFrom fs (putField b cur f.value f.width.bits) (cur + f.width.bits)

/-- `pack` (40_bitpacker.md R120). A `BitField` is legal by its type, so `pack` has no value outside its precondition
(R123). -/
def pack (fields : List BitField) : List Byte :=
  packFrom fields (List.replicate (bytesFor (totalBits (fields.map (·.width)))) 0) 0

/-- The loop of `unpack` (40_bitpacker.md R124), from the bit cursor `cur`. -/
def unpackFrom (b : List Byte) : List Width → Nat → List Nat
  | [], _ => []
  | w :: ws, cur => getField b cur w.bits :: unpackFrom b ws (cur + w.bits)

/-- `unpack` (40_bitpacker.md R124, R125): the one length test is made on the whole layout before any field is read. -/
def unpack (b : List Byte) (widths : List Width) : Except CmdError (List Nat) :=
  if 8 * b.length < totalBits widths then .error (.shortBuffer (totalBits widths) (8 * b.length))
  else .ok (unpackFrom b widths 0)

/-- The loop of the byte-at-a-time writer of 40_bitpacker.md R131; `rem` bits of `v` are still to be written, and
`fuel` bounds the iterations. -/
def putFieldBytesLoop : Nat → List Byte → Nat → Nat → Nat → List Byte
  | 0, b, _, _, _ => b
  | fuel + 1, b, c, v, rem =>
    if rem = 0 then b
    else
      let room := 8 - c % 8
      let take := min room rem
      let piece := (v >>> (rem - take)) % 2 ^ take
      let shift := room - take
      let mask := (2 ^ take - 1) * 2 ^ shift
      let b' := b.modify (c / 8) fun byte => BitVec.ofNat 8 ((byte.toNat &&& (0xFF - mask)) + piece * 2 ^ shift)
      putFieldBytesLoop fuel b' (c + take) v (rem - take)

/-- The byte-at-a-time writer (40_bitpacker.md R131): a legal field takes 1 to 5 iterations. For any other it stops after five
pieces and drops what falls past the end: DESIGN CHOICE (log 15), unsafe. -/
def putFieldBytes (b : List Byte) (c v w : Nat) : List Byte := putFieldBytesLoop 5 b c v w

/-- The loop of the matching byte-at-a-time reader of 40_bitpacker.md R131; `v` holds the bits read so far. -/
def getFieldBytesLoop : Nat → List Byte → Nat → Nat → Nat → Nat
  | 0, _, _, v, _ => v
  | fuel + 1, b, c, v, rem =>
    if rem = 0 then v
    else
      let room := 8 - c % 8
      let take := min room rem
      let shift := room - take
      let piece := ((b.getD (c / 8) 0).toNat >>> shift) &&& (2 ^ take - 1)
      getFieldBytesLoop fuel b (c + take) (v * 2 ^ take + piece) (rem - take)

/-- The byte-at-a-time reader (40_bitpacker.md R131). For a field that is not legal it stops after five pieces and reads bytes
past the end as 0: DESIGN CHOICE (log 15), unsafe. -/
def getFieldBytes (b : List Byte) (c w : Nat) : Nat := getFieldBytesLoop 5 b c 0 w

/-- v_0 ∥ v_1 ∥ ... as one number, each value taken as exactly its width (20_memory.md R63). -/
def concatFields : List BitField → Nat
  | [] => 0
  | f :: fs => f.value * 2 ^ totalBits (fs.map (·.width)) + concatFields fs

/-- `n` bytes of the number `x`, most significant byte first, those above them dropped (log 15): byte `i` is `x[8(n-1-i)+7 : 8(n-1-i)]` (20_memory.md
R63). -/
def bigEndianBytes (n x : Nat) : List Byte :=
  (List.range n).map fun i => BitVec.ofNat 8 (x >>> (8 * (n - 1 - i)))

/-- A byte sequence read as one big-endian number (40_bitpacker.md R132). -/
def bigEndianNumber (b : List Byte) : Nat :=
  b.foldl (fun x byte => 256 * x + byte.toNat) 0

/-- The whole-number form of `pack` (40_bitpacker.md R132, 20_memory.md R63 (b)). -/
def packNumber (fields : List BitField) : List Byte :=
  let total := totalBits (fields.map (·.width))
  let n := bytesFor total
  bigEndianBytes n (concatFields fields * 2 ^ (8 * n - total))

end Sys2Proof.Machine
end

