-- ==== Sys2Proof/Machine/Quantization.lean ====
section
/-!
DEFINITION. The quantization engine of the functional layer (41_quantization.md sections 1 and 2): exact integer
arithmetic with one rounding at the end (R150). Nothing maps a code back to a physical unit (R159).
-/

namespace Sys2Proof.Machine

/-- `round_haz` (41_quantization.md R150): the integer nearest to the rational N/D, halves away from zero, D > 0.
R150 gives no value for other D; Lean's division gives one: DESIGN CHOICE (log 15), unsafe. No quantizer has such a D. -/
def roundHaz (n d : Int) : Int :=
  if 0 ≤ n then (2 * n + d) / (2 * d) else -((2 * (-n) + d) / (2 * d))

/-- `q_lat` (41_quantization.md R151), on a latitude in units of 10^-7 degree. -/
def qLat (x : Int) : Except CmdError Int :=
  if x < -(90 * Config.degUnits) ∨ 90 * Config.degUnits < x then .error (.quantizationOverflow .latitude)
  else .ok (roundHaz ((x + 90 * Config.degUnits) * Config.latLonMaxCode) (180 * Config.degUnits))

/-- `q_lon` (41_quantization.md R152), on a longitude in units of 10^-7 degree. -/
def qLon (x : Int) : Except CmdError Int :=
  if x < -(180 * Config.degUnits) ∨ 180 * Config.degUnits < x then .error (.quantizationOverflow .longitude)
  else .ok (roundHaz ((x + 180 * Config.degUnits) * Config.latLonMaxCode) (360 * Config.degUnits))

/-- `q_alt` (41_quantization.md R153), on an altitude in millimetres: metres to feet to steps of 25 feet. -/
def qAlt (x : Int) : Except CmdError Int :=
  if x < 0 ∨ Config.altMaxUnits < x then .error (.quantizationOverflow .altitude)
  else .ok (roundHaz (x * Config.feetPerMetreNum) (Config.altUnits * Config.feetPerMetreDen * Config.altStepFeet))

/-- `q_hdg` (41_quantization.md R154): verbatim, no factor and no range check. -/
def qHdg (h : BitVec 16) : BitVec 16 := h

/-- `q_spd` (41_quantization.md R155): verbatim. -/
def qSpd (v : BitVec 16) : BitVec 16 := v

/-- `q_trk` (41_quantization.md R156): the low 12 bits of the track identifier. -/
def qTrk (t : BitVec 16) : BitVec 12 := (t &&& 0x0FFF).setWidth 12

end Sys2Proof.Machine
end

