-- ==== Sys2Proof/Machine/AirTrackCodec.lean ====
section
/-!
DEFINITION. The air-track body codec of the functional layer (42_airtrack_body.md section 1), written over the
parameter `LAYOUT` (00_scope.md R7, 10_state.md R35), and the value of that parameter (30_encoding.md R95).
-/

namespace Sys2Proof.Machine

/-- The value of `LAYOUT` for this hardware (30_encoding.md R95): the order of the source's table. -/
def airTrackLayout : Layout :=
  [.track, .latitudePacked, .longitudePacked, .trackNumber, .altitudePacked, .parity, .speedMs, .headingCdeg]

/-- The legal width of a field (10_state.md R23). -/
def fieldWidth : FieldName → Width
  | .track => ⟨16, by decide, by decide⟩
  | .latitudePacked => ⟨19, by decide, by decide⟩
  | .longitudePacked => ⟨19, by decide, by decide⟩
  | .trackNumber => ⟨12, by decide, by decide⟩
  | .altitudePacked => ⟨14, by decide, by decide⟩
  | .parity => ⟨5, by decide, by decide⟩
  | .speedMs => ⟨16, by decide, by decide⟩
  | .headingCdeg => ⟨16, by decide, by decide⟩

/-- A field of a report as `pack` takes it: each register is exactly as wide as its field, so the precondition holds
(10_state.md R23, 42_airtrack_body.md R182). -/
def reportField (r : Report) : FieldName → BitField
  | .track => ⟨fieldWidth .track, r.track.toNat, r.track.isLt⟩
  | .latitudePacked => ⟨fieldWidth .latitudePacked, r.latitudePacked.toNat, r.latitudePacked.isLt⟩
  | .longitudePacked => ⟨fieldWidth .longitudePacked, r.longitudePacked.toNat, r.longitudePacked.isLt⟩
  | .trackNumber => ⟨fieldWidth .trackNumber, r.trackNumber.toNat, r.trackNumber.isLt⟩
  | .altitudePacked => ⟨fieldWidth .altitudePacked, r.altitudePacked.toNat, r.altitudePacked.isLt⟩
  | .parity => ⟨fieldWidth .parity, r.parity.toNat, r.parity.isLt⟩
  | .speedMs => ⟨fieldWidth .speedMs, r.speedMs.toNat, r.speedMs.isLt⟩
  | .headingCdeg => ⟨fieldWidth .headingCdeg, r.headingCdeg.toNat, r.headingCdeg.isLt⟩

/-- A report with one field set to an unpacked value. `unpack` gives a value that fits (40_bitpacker.md R127); of one that does
not, which the spec does not speak of, the low bits are kept: DESIGN CHOICE (log 15), unsafe. -/
def setReportField (r : Report) : FieldName → Nat → Report
  | .track, x => { r with track := BitVec.ofNat 16 x }
  | .latitudePacked, x => { r with latitudePacked := BitVec.ofNat 19 x }
  | .longitudePacked, x => { r with longitudePacked := BitVec.ofNat 19 x }
  | .trackNumber, x => { r with trackNumber := BitVec.ofNat 12 x }
  | .altitudePacked, x => { r with altitudePacked := BitVec.ofNat 14 x }
  | .parity, x => { r with parity := BitVec.ofNat 5 x }
  | .speedMs, x => { r with speedMs := BitVec.ofNat 16 x }
  | .headingCdeg, x => { r with headingCdeg := BitVec.ofNat 16 x }

/-- The report with every field 0. -/
def zeroReport : Report := ⟨0, 0, 0, 0, 0, 0, 0, 0⟩

/-- The report that a layout's unpacked values make, each value going to the field of its place in the layout. `unpack` gives one value for each field (40_bitpacker.md R124); a field with no value, which the
spec does not speak of, is 0. Of a field that a layout repeats, of which the spec does not speak either, the value of the
first place counts: DESIGN CHOICE (log 15), unsafe. -/
def reportOfValues : Layout → List Nat → Report
  | n :: ns, x :: xs => setReportField (reportOfValues ns xs) n x
  | _, _ => zeroReport

/-- `from_geo` (42_airtrack_body.md R180), with the latitude, longitude and altitude already read as signed. -/
def fromGeo (track : BitVec 16) (lat lon alt : Int) (spd hdg : BitVec 16) : Except CmdError Report :=
  match qLat lat with
  | .error e => .error e
  | .ok a =>
    match qLon lon with
    | .error e => .error e
    | .ok o =>
      match qAlt alt with
      | .error e => .error e
      | .ok h =>
        .ok {
          track := track
          latitudePacked := BitVec.ofInt 19 a
          longitudePacked := BitVec.ofInt 19 o
          trackNumber := qTrk track
          altitudePacked := BitVec.ofInt 14 h
          parity := 0
          speedMs := qSpd spd
          headingCdeg := qHdg hdg }

/-- `body_encode` (42_airtrack_body.md R182): the eight stored values packed verbatim in the layout's order. -/
def bodyEncode (layout : Layout) (r : Report) : List Byte :=
  pack (layout.map (reportField r))

/-- `body_decode` (42_airtrack_body.md R184): no field is checked against another (R186). -/
def bodyDecode (layout : Layout) (b : List Byte) : Except CmdError Report :=
  match unpack b (layout.map fieldWidth) with
  | .error e => .error e
  | .ok vs => .ok (reportOfValues layout vs)

end Sys2Proof.Machine
end

