-- ==== Sys2Proof/Machine/Envelope.lean ====
section
/-!
DEFINITION. The message envelope of the functional layer (43_envelope.md section 1), written over the parameter
`REGISTRY` (R215), for any type of kinds, and the value of that parameter (30_encoding.md R97).
-/

namespace Sys2Proof.Machine

/-- The air-track body codec as a capability pair (43_envelope.md R215), over a layout. Its payload is the report, so no
other kind of message concerns it. -/
def airTrackCodec (layout : Layout) : Codec Report where
  encode := bodyEncode layout
  decode := bodyDecode layout

/-- The kind tag of a message (10_state.md R24). -/
def messageTag (m : Message) : Byte :=
  match m.kind with
  | .airTrack => Config.kindAirtrack

/-- The registry's entry of the air-track kind, over a layout (30_encoding.md R97). -/
def airTrackEntry (layout : Layout) : KindEntry MessageKind.Payload where
  tag := Config.kindAirtrack
  kind := .airTrack
  codec := airTrackCodec layout

/-- The value of `REGISTRY` for this hardware (30_encoding.md R97): one entry, 0x32. -/
def adsRegistry : Registry MessageKind.Payload := [airTrackEntry airTrackLayout]

/-- The entry registered for a tag, if there is one. In a registry with a repeated tag, which is not well-formed, the first
entry counts: DESIGN CHOICE (log 15), unsafe. -/
def entryOfTag {Kind : Type} {Payload : Kind → Type} : Registry Payload → Byte → Option (KindEntry Payload)
  | [], _ => none
  | e :: rest, tag => if e.tag = tag then some e else entryOfTag rest tag

/-- The tag and the codec registered for a kind, if there are. In a registry with a repeated kind, which is not
well-formed, the first entry counts: DESIGN CHOICE (log 15), unsafe. -/
def codecOfKind {Kind : Type} [DecidableEq Kind] {Payload : Kind → Type} :
    Registry Payload → (kind : Kind) → Option (Byte × Codec (Payload kind))
  | [], _ => none
  | e :: rest, kind => if h : e.kind = kind then some (e.tag, h ▸ e.codec) else codecOfKind rest kind

/-- The kind has an entry. -/
abbrev Registered {Kind : Type} [DecidableEq Kind] {Payload : Kind → Type} (reg : Registry Payload) (kind : Kind) : Prop :=
  (codecOfKind reg kind).isSome = true

/-- `env_encode` (43_envelope.md R210): the kind byte of the message's own kind, then that kind's codec's output. A message
is by its type of a registered kind, so it cannot fail; of a kind that a registry does not have it has no value. -/
def envEncode {Kind : Type} [DecidableEq Kind] {Payload : Kind → Type} (reg : Registry Payload) (m : MessageOf Payload)
    (h : Registered reg m.kind) : List Byte :=
  ((codecOfKind reg m.kind).get h).1 :: ((codecOfKind reg m.kind).get h).2.encode m.payload

/-- The air-track message is of a registered kind (30_encoding.md R97). -/
theorem airTrack_registered : Registered adsRegistry .airTrack := rfl

/-- `env_decode` (43_envelope.md R212): empty buffer, then kind, then the codec's own length test, in this order. -/
def envDecode {Kind : Type} {Payload : Kind → Type} (reg : Registry Payload) :
    List Byte → Except CmdError (MessageOf Payload)
  | [] => .error (.shortBuffer 8 0)
  | tag :: body =>
    match entryOfTag reg tag with
    | none => .error (.unsupportedKind tag)
    | some e =>
      match e.codec.decode body with
      | .error err => .error err
      | .ok p => .ok ⟨e.kind, p⟩

end Sys2Proof.Machine
end

