-- ==== Sys2Proof/Decode.lean ====
section
/-!
DEFINITION. The decoder, total on every word and on every byte sequence, refusing by name (30_encoding.md R90 to R92,
R96, R97); then the encoder, written from the opcode map (R91) and from the bit pattern of a frame (R96), apart from
the bit packer that the decoder of frames runs.
-/

namespace Sys2Proof

open Machine

/-- The field `zero` of a command word, bits 31:8 (30_encoding.md R90). -/
def commandZero (c : Word) : BitVec 24 := c.extractLsb' 8 24

/-- The field `opcode` of a command word, bits 7:0 (30_encoding.md R90). -/
def commandOpcode (c : Word) : Byte := c.extractLsb' 0 8

/-- The opcode map (30_encoding.md R91). -/
def commandOfOpcode (opcode : Byte) : Option Instr :=
  match opcode with
  | 0x00#8 => some .nop
  | 0x01#8 => some .clr
  | 0x10#8 => some .pack
  | 0x11#8 => some .unpack
  | 0x20#8 => some .qlat
  | 0x21#8 => some .qlon
  | 0x22#8 => some .qalt
  | 0x23#8 => some .qtrk
  | 0x30#8 => some .fromgeo
  | 0x31#8 => some .benc
  | 0x32#8 => some .bdec
  | 0x40#8 => some .menc
  | 0x41#8 => some .mdec
  | _ => none

/-- The decoder of command words (30_encoding.md R90 to R92): every word outside the map is IllegalCommand. -/
def decodeCommand (c : Word) : Except CmdError Instr :=
  if commandZero c = 0 then
    match commandOfOpcode (commandOpcode c) with
    | some i => .ok i
    | none => .error (.illegalCommand c)
  else .error (.illegalCommand c)

/-- The decoder of frames: the envelope decoder names what it refuses (43_envelope.md R212), padding bits and trailing
bytes are ignored (30_encoding.md R98). -/
def decodeFrame (bytes : List Byte) : Except CmdError Instr :=
  match envDecode adsRegistry bytes with
  | .error e => .error e
  | .ok ⟨.airTrack, r⟩ => .ok (.msgAirtrack r)

/-- The decoder, over both formats of spec/opcode_table.json. -/
def decode : Encoding → Except CmdError Instr
  | .command w => decodeCommand w
  | .frame bytes => decodeFrame bytes

/-- The 128 bits of an air-track frame, stream bit 0 first, which is bit 127 of this number (30_encoding.md R96). -/
def frameBits (r : Report) : BitVec 128 :=
  0x32#8 ++ r.track ++ r.latitudePacked ++ r.longitudePacked ++ r.trackNumber ++ r.altitudePacked ++ r.parity ++
    r.speedMs ++ r.headingCdeg ++ 0#3

/-- The sixteen bytes of a 128-bit pattern, frame byte 0 first (30_encoding.md R96). -/
def frameBytesOf (x : BitVec 128) : List Byte :=
  (List.range Config.frameBytes).map fun j => x.extractLsb' (8 * (Config.frameBytes - 1 - j)) 8

/-- The encoder: the command word of the opcode map (30_encoding.md R91), or the bytes of the frame (R96). -/
def encode : Instr → Encoding
  | .nop => .command 0x00000000
  | .clr => .command 0x00000001
  | .pack => .command 0x00000010
  | .unpack => .command 0x00000011
  | .qlat => .command 0x00000020
  | .qlon => .command 0x00000021
  | .qalt => .command 0x00000022
  | .qtrk => .command 0x00000023
  | .fromgeo => .command 0x00000030
  | .benc => .command 0x00000031
  | .bdec => .command 0x00000032
  | .menc => .command 0x00000040
  | .mdec => .command 0x00000041
  | .msgAirtrack r => .frame (frameBytesOf (frameBits r))

/-- The bytes of a number whose bit 0 is the least significant bit of the first byte, the numbering that the host of
this row uses for an instruction's words. -/
def littleEndianBytes (n w : Nat) : List Byte :=
  (List.range n).map fun j => BitVec.ofNat 8 (w >>> (8 * j))

/-- What the decoder reads from an instruction given as a number: up to 32 bits a command word, up to 128 bits the
sixteen bytes of a frame, frame byte 0 in bits 7:0. DEDUCED (log 9), safe. More than 128 bits are no instruction. -/
def decodeTableWord (nbits w : Nat) : Option Instr :=
  if nbits ≤ 32 then (decode (.command (BitVec.ofNat 32 w))).toOption
  else if nbits ≤ 128 then (decode (.frame (littleEndianBytes Config.frameBytes w))).toOption
  else none

end Sys2Proof
end

