-- ==== Sys2Proof/Machine/State.lean ====
section
/-!
DEFINITION. The state of the core: exactly the registers and the buffer of 10_state.md R20, and the host's side of the
port (the events still to come and the words read so far), which a deterministic step needs as data. All plain data.
-/

namespace Sys2Proof.Machine

/-- What stops the machine: nothing. The spec gives every host access and every command exactly one outcome from every
state (44_system_host.md R235, 93_implementation_defined.md section 1), so no reason exists and this type has no
constructor. An error of the core is no stop: it is a next state with `STATUS`, `EINFO0` and `EINFO1` written
(60_exceptions.md R257). DEDUCED (log 13), safe. -/
inductive Fault where
  deriving DecidableEq, Repr

/-- Why an instruction has no meaning in the model. -/
inductive Refusal where
  /-- Raised by an arm of `exec` whose instruction has no meaning yet. Safe: the model stops. No arm uses it. -/
  | notModelled (mnemonic : String)
  deriving DecidableEq, Repr

/-- What happens to the core from outside, one event a step: the two host accesses of 44_system_host.md R232 and R233,
at a byte offset, and the platform's reset input (70_reset_and_hazards.md R291). DESIGN CHOICE: a reset comes between
accesses (log 5), unsafe; an offset has no upper bound (log 6), unsafe. -/
inductive HostEvent where
  | write (offset : Nat) (data : Word)
  | read (offset : Nat)
  | reset
  deriving DecidableEq, Repr

/-- The buffer `BUF` (20_memory.md R60): the bytes that differ from their reset value 0x00, by rising address. DEDUCED
(log 11), safe. -/
abbrev Memory := List Host.Cell

structure State where
  /-- `STATUS`: the field `ERR`; bits 31:8 have no storage (10_state.md R20, R27). DEDUCED (log 10), safe. -/
  err : Byte
  /-- `EINFO0` (10_state.md R28). -/
  einfo0 : Word
  /-- `EINFO1` (10_state.md R28). -/
  einfo1 : Word
  /-- `NF` (10_state.md R21). -/
  nf : Word
  /-- `LEN` (10_state.md R25). -/
  len : Word
  /-- `KIND` (10_state.md R24). -/
  kind : Byte
  /-- `V[0..7]` (10_state.md R21). -/
  v : Vector Word 8
  /-- `W[0..7]` (10_state.md R21). -/
  w : Vector Word 8
  /-- `GTRACK` (10_state.md R22). -/
  gtrack : BitVec 16
  /-- `GLAT`, a two's-complement pattern (10_state.md R22). -/
  glat : Word
  /-- `GLON`, a two's-complement pattern (10_state.md R22). -/
  glon : Word
  /-- `GALT`, a two's-complement pattern (10_state.md R22). -/
  galt : Word
  /-- `GSPD` (10_state.md R22). -/
  gspd : BitVec 16
  /-- `GHDG` (10_state.md R22). -/
  ghdg : BitVec 16
  /-- `TRACK` (10_state.md R23). -/
  track : BitVec 16
  /-- `LATP` (10_state.md R23). -/
  latp : BitVec 19
  /-- `LONP` (10_state.md R23). -/
  lonp : BitVec 19
  /-- `TRKN` (10_state.md R23). -/
  trkn : BitVec 12
  /-- `ALTP` (10_state.md R23). -/
  altp : BitVec 14
  /-- `PAR` (10_state.md R23). -/
  par : BitVec 5
  /-- `SPD` (10_state.md R23). -/
  spd : BitVec 16
  /-- `HDG` (10_state.md R23). -/
  hdg : BitVec 16
  /-- `BUF[0..31]` (10_state.md R25). -/
  buf : Memory
  /-- The model's own: what the host and the platform do next, first event first. DESIGN CHOICE (log 1), safe but for
  claims about the run from reset alone. -/
  pending : List HostEvent
  /-- The model's own: the words that host reads have returned, oldest first. DESIGN CHOICE (log 3), safe. -/
  returned : List Word
  deriving DecidableEq, Repr

/-- The reset state (70_reset_and_hazards.md R290): every register and every buffer byte 0. Nothing is pending and
nothing has been read. -/
def State.reset : State where
  err := 0
  einfo0 := 0
  einfo1 := 0
  nf := 0
  len := 0
  kind := 0
  v := Vector.replicate 8 0
  w := Vector.replicate 8 0
  gtrack := 0
  glat := 0
  glon := 0
  galt := 0
  gspd := 0
  ghdg := 0
  track := 0
  latp := 0
  lonp := 0
  trkn := 0
  altp := 0
  par := 0
  spd := 0
  hdg := 0
  buf := []
  pending := []
  returned := []

end Sys2Proof.Machine
end

