-- ==== Sys2Proof/Machine/Flags.lean ====
section
/-!
DEFINITION. The core's only flag and its error information: the values of `STATUS.ERR`, `EINFO0` and `EINFO1` for each
error (10_state.md R27, R28; 60_exceptions.md R250). No command sets any other condition (10_state.md R30).
-/

namespace Sys2Proof.Machine

/-- `STATUS.ERR` of an error (60_exceptions.md R250). -/
def errorCode : CmdError → Byte
  | .shortBuffer _ _ => 1
  | .unsupportedKind _ => 2
  | .quantizationOverflow _ => 3
  | .illegalCommand _ => 4
  | .badOperand _ => 5
  | .fieldRange _ => 6

/-- The number of an overflowing field (60_exceptions.md R250, R253). -/
def geoFieldNumber : GeoField → Word
  | .latitude => 1
  | .longitude => 2
  | .altitude => 3

/-- The source's name of an overflowing field (60_exceptions.md R250, R253). -/
def geoFieldName : GeoField → String
  | .latitude => "latitude"
  | .longitude => "longitude"
  | .altitude => "altitude"

/-- `EINFO0` of an error (10_state.md R28). -/
def errorInfo0 : CmdError → Word
  | .shortBuffer needed _ => BitVec.ofNat 32 needed
  | .unsupportedKind tag => tag.setWidth 32
  | .quantizationOverflow f => geoFieldNumber f
  | .illegalCommand word => word
  | .badOperand (.nf _) => 1
  | .badOperand (.width _) => 2
  | .badOperand (.len _) => 3
  | .fieldRange i => BitVec.ofNat 32 i

/-- `EINFO1` of an error (10_state.md R28). -/
def errorInfo1 : CmdError → Word
  | .shortBuffer _ available => BitVec.ofNat 32 available
  | .unsupportedKind _ => 0
  | .quantizationOverflow _ => 0
  | .illegalCommand _ => 0
  | .badOperand (.nf value) => value
  | .badOperand (.width i) => BitVec.ofNat 32 i
  | .badOperand (.len value) => value
  | .fieldRange _ => 0

end Sys2Proof.Machine
end

