-- ==== Sys2Proof/Machine/Ops.lean ====
section
/-!
DEFINITION. The named operations over the buffer and the registers: reading and writing a byte of `BUF`, the writes that
commands share, and the two ends of a command (00_scope.md R11), of which `raise` is the taking of an exception.
-/

namespace Sys2Proof.Machine

/-- What a byte of `BUF` that the list does not hold reads as: its reset value (70_reset_and_hazards.md R290). -/
def unlistedByte : Byte := 0x00

/-- `BUF[addr]` (00_scope.md R10, `MemRead`). An address above 31 does not exist (20_memory.md R60) and no access names one;
here it reads as 0: DESIGN CHOICE (log 15), unsafe. -/
def Memory.read : Memory → Nat → Byte
  | [], _ => unlistedByte
  | (a, b) :: m, addr => if a = addr then b else Memory.read m addr

/-- The list without any entry of an address. -/
def Memory.erase : Memory → Nat → Memory
  | [], _ => []
  | (a, b) :: m, addr => if a = addr then Memory.erase m addr else (a, b) :: Memory.erase m addr

/-- An entry put before the first entry of a higher address. -/
def Memory.insert : Memory → Nat → Byte → Memory
  | [], addr, x => [(addr, x)]
  | (a, b) :: m, addr, x => if addr < a then (addr, x) :: (a, b) :: m else (a, b) :: Memory.insert m addr x

/-- `BUF[addr] <- x` (00_scope.md R10, `MemWrite`). The address is one of the 32 that exist (20_memory.md R60), so no
access leaves the buffer. -/
def Memory.write (m : Memory) (addr : Fin Config.bufBytes) (x : Byte) : Memory :=
  if x = unlistedByte then Memory.erase m addr.val else Memory.insert (Memory.erase m addr.val) addr.val x

/-- The cells from address `addr` on of a buffer whose bytes are a given list followed by zeros; `n` addresses are
left. -/
def Memory.cellsFrom : Nat → Nat → List Byte → Memory
  | 0, _, _ => []
  | _ + 1, _, [] => []
  | n + 1, addr, x :: xs =>
    if x = unlistedByte then Memory.cellsFrom n (addr + 1) xs else (addr, x) :: Memory.cellsFrom n (addr + 1) xs

/-- The whole buffer rewritten: the bytes given, then zeros (40_bitpacker.md R128, D17). Of more than 32 bytes, which no
command writes, the first 32 are kept: DESIGN CHOICE (log 15), unsafe. -/
def Memory.ofBytes (bytes : List Byte) : Memory := Memory.cellsFrom Config.bufBytes 0 bytes

/-- The addresses of a list rise strictly, from above `low`. -/
def Memory.risesFrom : Nat → Memory → Bool
  | _, [] => true
  | low, (a, _) :: m => low ≤ a && Memory.risesFrom (a + 1) m

/-- The canonical form of the buffer: addresses strictly rising, all of them in the address space, and no entry equal
to what an unlisted address reads as. -/
def Memory.wf (m : Memory) : Bool :=
  Memory.risesFrom 0 m && m.all fun c => c.1 < Config.bufBytes && c.2 != unlistedByte

/-- The three registers that every command writes (00_scope.md R11). -/
def State.setOutcome (s : State) (code : Byte) (a b : Word) : State :=
  { s with err := code, einfo0 := a, einfo1 := b }

/-- A command completes: `STATUS`, `EINFO0` and `EINFO1` become 0 (00_scope.md R11). It is also all the return there is
from an error (60_exceptions.md R261). -/
def State.complete (s : State) : State := s.setOutcome 0 0 0

/-- TAKING AN EXCEPTION (60_exceptions.md R257, R260): the error's code and its two information words are written and
nothing else changes; control goes nowhere and nothing is saved. -/
def State.raise (s : State) (e : CmdError) : State :=
  s.setOutcome (errorCode e) (errorInfo0 e) (errorInfo1 e)

/-- The frame every command runs in (00_scope.md R11): its writes and a completion, or the error on the state before
it. -/
def commit (s : State) (result : Except CmdError State) : Host.Outcome State Fault Refusal :=
  match result with
  | .ok t => .next t.complete
  | .error e => .next (s.raise e)

/-- What `PACK`, `BENC` and `MENC` write: all 32 bytes of `BUF`, and `LEN` (10_state.md R25). -/
def State.setEncoded (s : State) (bytes : List Byte) : State :=
  { s with buf := Memory.ofBytes bytes, len := BitVec.ofNat 32 bytes.length }

/-- `report_regs() <- r` (10_state.md R36). -/
def State.setReport (s : State) (r : Report) : State :=
  { s with
    track := r.track
    latp := r.latitudePacked
    lonp := r.longitudePacked
    trkn := r.trackNumber
    altp := r.altitudePacked
    par := r.parity
    spd := r.speedMs
    hdg := r.headingCdeg }

/-- What a decoded message writes: `KIND` and the eight report registers (43_envelope.md R213). -/
def State.setMessage (s : State) (tag : Byte) (r : Report) : State :=
  { s.setReport r with kind := tag }

/-- What `UNPACK` writes: `V[i] <- zext_32(vs[i])` for every unpacked value, and no other `V[i]` (40_bitpacker.md
R129). Of more than eight values the first eight count, and of a value above 32 bits the low bits, which `unpack` never
gives: DESIGN CHOICE (log 15), unsafe. -/
def State.setFieldValues (s : State) (vs : List Nat) : State :=
  { s with
    v := Vector.ofFn fun i => (vs[i.val]?).elim s.v[i] (BitVec.ofNat 32) }

/-- Every register and buffer byte at its reset value (44_system_host.md R231, 70_reset_and_hazards.md R291). The
host's events and the words it has read are not the core's, and stay: DESIGN CHOICE (log 5), unsafe. -/
def State.toReset (s : State) : State :=
  { State.reset with pending := s.pending, returned := s.returned }

end Sys2Proof.Machine
end

