-- ==== Sys2Proof/Machine/Operands.lean ====
section
/-!
DEFINITION. The implicit operands of the commands (30_encoding.md R93, R94), read from the state with the checks the
spec makes on them (60_exceptions.md R255, R256, R259).
-/

namespace Sys2Proof.Machine

/-- `signed32` (00_scope.md R10): how `GLAT`, `GLON` and `GALT` are read. -/
def signed32 (x : Word) : Int :=
  if x.toNat < 2 ^ 31 then (x.toNat : Int) else (x.toNat : Int) - 2 ^ 32

/-- `report_regs()` (10_state.md R36). -/
def reportRegs (s : State) : Report where
  track := s.track
  latitudePacked := s.latp
  longitudePacked := s.lonp
  trackNumber := s.trkn
  altitudePacked := s.altp
  parity := s.par
  speedMs := s.spd
  headingCdeg := s.hdg

/-- `buffer()` (10_state.md R25): the bytes below `LEN`, which is legal up to 32 (60_exceptions.md R255). -/
def readBuffer (s : State) : Except CmdError (List Byte) :=
  if s.len.toNat ≤ Config.bufBytes then .ok ((List.range s.len.toNat).map s.buf.read)
  else .error (.badOperand (.len s.len))

/-- The indices below `NF`, which is legal up to 8 (60_exceptions.md R255). -/
def fieldIndices (s : State) : Except CmdError (List (Fin Config.nFields)) :=
  if s.nf.toNat ≤ Config.nFields then .ok ((List.finRange Config.nFields).take s.nf.toNat)
  else .error (.badOperand (.nf s.nf))

/-- The width at an index, legal from 1 to 32 (60_exceptions.md R255). -/
def readWidth (s : State) (i : Fin Config.nFields) : Except CmdError Width :=
  if h : 1 ≤ (s.w[i]).toNat ∧ (s.w[i]).toNat ≤ Config.wMax then .ok ⟨(s.w[i]).toNat, h.1, h.2⟩
  else .error (.badOperand (.width i.val))

/-- The widths at some indices; the first illegal one is reported (60_exceptions.md R259). -/
def readWidths (s : State) : List (Fin Config.nFields) → Except CmdError (List (Fin Config.nFields × Width))
  | [] => .ok []
  | i :: is =>
    match readWidth s i with
    | .error e => .error e
    | .ok w =>
      match readWidths s is with
      | .error e => .error e
      | .ok ws => .ok ((i, w) :: ws)

/-- The field at an index whose width is legal; its value must fit (60_exceptions.md R256). -/
def readField (s : State) (i : Fin Config.nFields) (w : Width) : Except CmdError BitField :=
  if h : (s.v[i]).toNat < 2 ^ w.bits then .ok ⟨w, (s.v[i]).toNat, h⟩
  else .error (.fieldRange i.val)

/-- The fields at some indices with their widths; the first value that does not fit is reported (60_exceptions.md
R259). -/
def readFields (s : State) : List (Fin Config.nFields × Width) → Except CmdError (List BitField)
  | [] => .ok []
  | (i, w) :: rest =>
    match readField s i w with
    | .error e => .error e
    | .ok f =>
      match readFields s rest with
      | .error e => .error e
      | .ok fs => .ok (f :: fs)

/-- The widths below `NF`: `NF` is checked first, then every width (60_exceptions.md R259). -/
def widthOperands (s : State) : Except CmdError (List (Fin Config.nFields × Width)) :=
  match fieldIndices s with
  | .error e => .error e
  | .ok is => readWidths s is

/-- The field list below `NF`: all width checks come before all value checks (40_bitpacker.md R128). -/
def fieldOperands (s : State) : Except CmdError (List BitField) :=
  match widthOperands s with
  | .error e => .error e
  | .ok ws => readFields s ws

end Sys2Proof.Machine
end

