-- ==== Sys2Proof/Machine/AirTrackBody.lean ====
section
/-!
DEFINITION. The meanings of `FROMGEO`, `BENC` and `BDEC` (42_airtrack_body.md). They use `LAYOUT`, never the field
table (70_reset_and_hazards.md R295).
-/

namespace Sys2Proof.Machine

/-- `FROMGEO` (42_airtrack_body.md R181). -/
def execFromgeo (s : State) : Host.Outcome State Fault Refusal :=
  commit s <|
    match fromGeo s.gtrack (signed32 s.glat) (signed32 s.glon) (signed32 s.galt) s.gspd s.ghdg with
    | .error e => .error e
    | .ok r => .ok (s.setReport r)

/-- `BENC` (42_airtrack_body.md R183). -/
def execBenc (s : State) : Host.Outcome State Fault Refusal :=
  commit s (.ok (s.setEncoded (bodyEncode airTrackLayout (reportRegs s))))

/-- `BDEC` (42_airtrack_body.md R185). -/
def execBdec (s : State) : Host.Outcome State Fault Refusal :=
  commit s <|
    match readBuffer s with
    | .error e => .error e
    | .ok b =>
      match bodyDecode airTrackLayout b with
      | .error e => .error e
      | .ok r => .ok (s.setReport r)

end Sys2Proof.Machine
end

