-- ==== Sys2Proof/Machine/BitPacker.lean ====
section
/-!
DEFINITION. The meanings of `PACK` and `UNPACK` (40_bitpacker.md section 2).
-/

namespace Sys2Proof.Machine

/-- `PACK` (40_bitpacker.md R128). -/
def execPack (s : State) : Host.Outcome State Fault Refusal :=
  commit s <|
    match fieldOperands s with
    | .error e => .error e
    | .ok fields => .ok (s.setEncoded (pack fields))

/-- `UNPACK` (40_bitpacker.md R129). -/
def execUnpack (s : State) : Host.Outcome State Fault Refusal :=
  commit s <|
    match widthOperands s with
    | .error e => .error e
    | .ok ws =>
      match readBuffer s with
      | .error e => .error e
      | .ok b =>
        match unpack b (ws.map Prod.snd) with
        | .error e => .error e
        | .ok vs => .ok (s.setFieldValues vs)

end Sys2Proof.Machine
end

