-- ==== Sys2Proof/Machine/MessageEnvelope.lean ====
section
/-!
DEFINITION. The meanings of `MENC` and `MDEC` (43_envelope.md), and of the wire-format row `MSG.AIRTRACK`.
-/

namespace Sys2Proof.Machine

/-- `MENC` (43_envelope.md R211). -/
def execMenc (s : State) : Host.Outcome State Fault Refusal :=
  commit s <|
    match entryOfTag adsRegistry s.kind with
    | none => .error (.unsupportedKind s.kind)
    | some _ => .ok (s.setEncoded (envEncode adsRegistry (.airTrack (reportRegs s)) airTrack_registered))

/-- `MDEC` (43_envelope.md R213). -/
def execMdec (s : State) : Host.Outcome State Fault Refusal :=
  commit s <|
    match readBuffer s with
    | .error e => .error e
    | .ok b =>
      match envDecode adsRegistry b with
      | .error e => .error e
      | .ok ⟨.airTrack, r⟩ => .ok (s.setMessage (messageTag (.airTrack r)) r)

/-- `MSG.AIRTRACK` (30_encoding.md R96). DEDUCED (log 4): a frame is not a command word; what it does to the core is
what the control transfer of R214 does when it meets it in the buffer, the completion of `MDEC` (43_envelope.md R213).
Unsafe. -/
def execMsgAirtrack (r : Report) (s : State) : Host.Outcome State Fault Refusal :=
  commit s (.ok (s.setMessage Config.kindAirtrack r))

end Sys2Proof.Machine
end

