-- ==== Sys2Proof/Machine/Quantizer.lean ====
section
/-!
DEFINITION. The meanings of the quantizer commands (41_quantization.md section 3).
-/

namespace Sys2Proof.Machine

/-- `QLAT` (41_quantization.md R160). -/
def execQlat (s : State) : Host.Outcome State Fault Refusal :=
  commit s <|
    match qLat (signed32 s.glat) with
    | .error e => .error e
    | .ok c => .ok { s with latp := BitVec.ofInt 19 c }

/-- `QLON` (41_quantization.md R161). -/
def execQlon (s : State) : Host.Outcome State Fault Refusal :=
  commit s <|
    match qLon (signed32 s.glon) with
    | .error e => .error e
    | .ok c => .ok { s with lonp := BitVec.ofInt 19 c }

/-- `QALT` (41_quantization.md R162). -/
def execQalt (s : State) : Host.Outcome State Fault Refusal :=
  commit s <|
    match qAlt (signed32 s.galt) with
    | .error e => .error e
    | .ok c => .ok { s with altp := BitVec.ofInt 14 c }

/-- `QTRK` (41_quantization.md R163). -/
def execQtrk (s : State) : Host.Outcome State Fault Refusal :=
  commit s (.ok { s with track := s.gtrack, trkn := qTrk s.gtrack })

end Sys2Proof.Machine
end

