-- ==== Sys2Proof/Machine/System.lean ====
section
/-!
DEFINITION. The meanings of the system commands (44_system_host.md section 1).
-/

namespace Sys2Proof.Machine

/-- `NOP` (44_system_host.md R230). -/
def execNop (s : State) : Host.Outcome State Fault Refusal :=
  commit s (.ok s)

/-- `CLR` (44_system_host.md R231). -/
def execClr (s : State) : Host.Outcome State Fault Refusal :=
  commit s (.ok s.toReset)

end Sys2Proof.Machine
end

