-- ==== Sys2Proof/Machine/Dispatch.lean ====
section
/-!
DEFINITION. One arm per constructor of Instr: each instruction's meaning.
-/

namespace Sys2Proof.Machine

def exec (i : Instr) (s : State) : Host.Outcome State Fault Refusal :=
  match i with
  | .nop => Sys2Proof.Machine.execNop s
  | .clr => Sys2Proof.Machine.execClr s
  | .pack => Sys2Proof.Machine.execPack s
  | .unpack => Sys2Proof.Machine.execUnpack s
  | .qlat => Sys2Proof.Machine.execQlat s
  | .qlon => Sys2Proof.Machine.execQlon s
  | .qalt => Sys2Proof.Machine.execQalt s
  | .qtrk => Sys2Proof.Machine.execQtrk s
  | .fromgeo => Sys2Proof.Machine.execFromgeo s
  | .benc => Sys2Proof.Machine.execBenc s
  | .bdec => Sys2Proof.Machine.execBdec s
  | .menc => Sys2Proof.Machine.execMenc s
  | .mdec => Sys2Proof.Machine.execMdec s
  | .msgAirtrack r => Sys2Proof.Machine.execMsgAirtrack r s

end Sys2Proof.Machine
end

