-- ==== Sys2Proof/Machine/HostPort.lean ====
section
/-!
DEFINITION. The host port: the register map (10_state.md R32), the width rule (R33), the access rights (R34), and the
two register accesses of 44_system_host.md R232 and R233 but for the write that executes a command.
-/

namespace Sys2Proof.Machine

/-- The registers the host sees (10_state.md R32). -/
inductive HostReg where
  | cmd | status | einfo0 | einfo1 | nf | len | kind
  | gtrack | glat | glon | galt | gspd | ghdg
  | track | latp | lonp | trkn | altp | par | spd | hdg
  | v (i : Fin 8)
  | w (i : Fin 8)
  | buf (i : Fin 32)
  deriving DecidableEq, Repr

/-- Host access rights (10_state.md R32, R34). -/
inductive HostAccess where
  | writeOnly
  | readOnly
  | readWrite
  deriving DecidableEq, Repr

/-- The byte offset of a register (10_state.md R32). -/
def hostOffset : HostReg → Nat
  | .cmd => 0x000
  | .status => 0x004
  | .einfo0 => 0x008
  | .einfo1 => 0x00C
  | .nf => 0x010
  | .len => 0x014
  | .kind => 0x018
  | .gtrack => 0x020
  | .glat => 0x024
  | .glon => 0x028
  | .galt => 0x02C
  | .gspd => 0x030
  | .ghdg => 0x034
  | .track => 0x040
  | .latp => 0x044
  | .lonp => 0x048
  | .trkn => 0x04C
  | .altp => 0x050
  | .par => 0x054
  | .spd => 0x058
  | .hdg => 0x05C
  | .v i => 0x080 + 4 * i.val
  | .w i => 0x0A0 + 4 * i.val
  | .buf i => 0x100 + 4 * i.val

/-- The width of a register at the port (10_state.md R32). -/
def hostWidth : HostReg → Nat
  | .kind | .buf _ => 8
  | .gtrack | .gspd | .ghdg | .track | .spd | .hdg => 16
  | .latp | .lonp => 19
  | .trkn => 12
  | .altp => 14
  | .par => 5
  | .cmd | .status | .einfo0 | .einfo1 | .nf | .len | .glat | .glon | .galt | .v _ | .w _ => 32

/-- The access the host has to a register (10_state.md R32, R34). -/
def hostAccess : HostReg → HostAccess
  | .cmd => .writeOnly
  | .status | .einfo0 | .einfo1 => .readOnly
  | .nf | .len | .kind | .gtrack | .glat | .glon | .galt | .gspd | .ghdg | .track | .latp | .lonp | .trkn | .altp
  | .par | .spd | .hdg | .v _ | .w _ | .buf _ => .readWrite

/-- Every register of the map. -/
def hostRegs : List HostReg :=
  [.cmd, .status, .einfo0, .einfo1, .nf, .len, .kind, .gtrack, .glat, .glon, .galt, .gspd, .ghdg, .track, .latp, .lonp,
    .trkn, .altp, .par, .spd, .hdg] ++
    (List.finRange 8).map .v ++ (List.finRange 8).map .w ++ (List.finRange 32).map .buf

/-- The register at an offset; every other offset is unmapped (10_state.md R32). -/
def hostRegAt (offset : Nat) : Option HostReg :=
  hostRegs.find? fun r => hostOffset r == offset

/-- What a host read of a register gives, zero-extended to 32 bits (10_state.md R33); `CMD` reads 0 (R26). -/
def readHostReg (s : State) : HostReg → Word
  | .cmd => 0
  | .status => s.err.setWidth 32
  | .einfo0 => s.einfo0
  | .einfo1 => s.einfo1
  | .nf => s.nf
  | .len => s.len
  | .kind => s.kind.setWidth 32
  | .gtrack => s.gtrack.setWidth 32
  | .glat => s.glat
  | .glon => s.glon
  | .galt => s.galt
  | .gspd => s.gspd.setWidth 32
  | .ghdg => s.ghdg.setWidth 32
  | .track => s.track.setWidth 32
  | .latp => s.latp.setWidth 32
  | .lonp => s.lonp.setWidth 32
  | .trkn => s.trkn.setWidth 32
  | .altp => s.altp.setWidth 32
  | .par => s.par.setWidth 32
  | .spd => s.spd.setWidth 32
  | .hdg => s.hdg.setWidth 32
  | .v i => s.v[i]
  | .w i => s.w[i]
  | .buf i => (s.buf.read i.val).setWidth 32

/-- A host write of `d` to a register other than `CMD`: the low bits that the register holds are stored (10_state.md
R33), a read-only register keeps its content (R34). -/
def writeHostReg (s : State) (d : Word) : HostReg → State
  | .cmd | .status | .einfo0 | .einfo1 => s
  | .nf => { s with nf := d }
  | .len => { s with len := d }
  | .kind => { s with kind := d.setWidth 8 }
  | .gtrack => { s with gtrack := d.setWidth 16 }
  | .glat => { s with glat := d }
  | .glon => { s with glon := d }
  | .galt => { s with galt := d }
  | .gspd => { s with gspd := d.setWidth 16 }
  | .ghdg => { s with ghdg := d.setWidth 16 }
  | .track => { s with track := d.setWidth 16 }
  | .latp => { s with latp := d.setWidth 19 }
  | .lonp => { s with lonp := d.setWidth 19 }
  | .trkn => { s with trkn := d.setWidth 12 }
  | .altp => { s with altp := d.setWidth 14 }
  | .par => { s with par := d.setWidth 5 }
  | .spd => { s with spd := d.setWidth 16 }
  | .hdg => { s with hdg := d.setWidth 16 }
  | .v i => { s with v := s.v.set i d }
  | .w i => { s with w := s.w.set i d }
  | .buf i => { s with buf := s.buf.write i (d.setWidth 8) }

/-- `HostRead(off)` (44_system_host.md R232): the word returned. No state of the core changes. -/
def hostRead (s : State) (offset : Nat) : Word :=
  match hostRegAt offset with
  | some r => readHostReg s r
  | none => 0

end Sys2Proof.Machine
end

