-- ==== Sys2Proof/Machine/Execute.lean ====
section
/-!
DEFINITION. What one event from outside does to the core: executing a command word (00_scope.md R11, 44_system_host.md
R234), a host write, a host read, the reset input.
-/

namespace Sys2Proof.Machine

/-- `Execute(c)` (00_scope.md R11): the word is decoded and the command runs, or IllegalCommand is raised
(30_encoding.md R92). -/
def execute (c : Word) (s : State) : Host.Outcome State Fault Refusal :=
  match decode (.command c) with
  | .error e => commit s (.error e)
  | .ok i => exec i s

/-- `HostWrite(off, d)` (44_system_host.md R233). -/
def hostWrite (offset : Nat) (d : Word) (s : State) : Host.Outcome State Fault Refusal :=
  match hostRegAt offset with
  | some .cmd => execute d s
  | some r => .next (writeHostReg s d r)
  | none => .next s

/-- The next event, if there is one, and the state with it taken from the list. -/
def nextEvent (s : State) : Option (HostEvent × State) :=
  match s.pending with
  | [] => none
  | e :: rest => some (e, { s with pending := rest })

/-- One event: a host write, a host read whose word goes to the host, or the reset input (70_reset_and_hazards.md
R291). -/
def runEvent (e : HostEvent) (s : State) : Host.Outcome State Fault Refusal :=
  match e with
  | .write offset d => hostWrite offset d s
  | .read offset => .next { s with returned := s.returned ++ [hostRead s offset] }
  | .reset => .next s.toReset

/-- One step of the machine (44_system_host.md R235): the next event from outside, or nothing when there is none
(60_exceptions.md R268). DEDUCED (log 2), safe. -/
def runNext (s : State) : Host.Outcome State Fault Refusal :=
  match nextEvent s with
  | none => .next s
  | some (e, t) => runEvent e t

/-- The state in which the next event is a host write of a command word. -/
def withCommand (s : State) (c : Word) : State :=
  { s with pending := .write (hostOffset .cmd) c :: s.pending }

/-- The state in which a frame stands in the buffer and the next event is the `MDEC` that runs it. -/
def withFrame (s : State) (bytes : List Byte) : State :=
  withCommand (s.setEncoded bytes) 0x00000041

end Sys2Proof.Machine
end

