-- ==== Sys2Proof/Machine/Step.lean ====
section
/-!
DEFINITION. The step of the machine and the place an instruction is put for the next step to run it.
-/

namespace Sys2Proof.Machine

/-- One step (44_system_host.md R235). -/
def step (s : State) : Host.Outcome State Fault Refusal := runNext s

/-- `s` with an instruction where the next step takes it (log 1): up to 32 bits, a command word written to `CMD`; more,
the sixteen bytes of a frame in the buffer and the `MDEC` that runs it (log 4). -/
def State.withFetchWord (s : State) (nbits w : Nat) : State :=
  if nbits ≤ 32 then withCommand s (BitVec.ofNat 32 w)
  else withFrame s (littleEndianBytes Config.frameBytes w)

end Sys2Proof.Machine
end

