-- ==== Sys2Proof/Safety.lean ====
section
/-!
DEFINITION. The terms claims about the core are made in: the invariant of every step, the core's state without the host's
side of the port, and the numbers and slices in which 10_state.md and 20_memory.md describe the buffer.
-/

namespace Sys2Proof.Machine

/-- The thirteen command words (30_encoding.md R91). -/
def commandWords : List Word :=
  [0x00000000, 0x00000001, 0x00000010, 0x00000011, 0x00000020, 0x00000021, 0x00000022, 0x00000023, 0x00000030,
    0x00000031, 0x00000032, 0x00000040, 0x00000041]

/-- The architectural state of 10_state.md R20: everything but the host's side of the port (logs 1 and 3). -/
def State.coreState (s : State) : State := { s with pending := [], returned := [] }

/-- What `STATUS`, `EINFO0` and `EINFO1` may hold together (10_state.md R27, R28; 60_exceptions.md R251 to R256): a
completion with no information, or one of the six errors with its two arguments in their ranges. -/
abbrev ErrorRecordOk (s : State) : Prop :=
  (s.err = 0 ∧ s.einfo0 = 0 ∧ s.einfo1 = 0) ∨
  (s.err = 1 ∧ s.einfo1.toNat < s.einfo0.toNat ∧ s.einfo0.toNat ≤ 256 ∧ s.einfo1.toNat % 8 = 0) ∨
  (s.err = 2 ∧ s.einfo0.toNat < 256 ∧ s.einfo0 ≠ 0x32 ∧ s.einfo1 = 0) ∨
  (s.err = 3 ∧ 1 ≤ s.einfo0.toNat ∧ s.einfo0.toNat ≤ 3 ∧ s.einfo1 = 0) ∨
  (s.err = 4 ∧ s.einfo0 ∉ commandWords ∧ s.einfo1 = 0) ∨
  (s.err = 5 ∧
    ((s.einfo0 = 1 ∧ 8 < s.einfo1.toNat) ∨ (s.einfo0 = 2 ∧ s.einfo1.toNat < 8) ∨
      (s.einfo0 = 3 ∧ 32 < s.einfo1.toNat))) ∨
  (s.err = 6 ∧ s.einfo0.toNat < 8 ∧ s.einfo1 = 0)

/-- The invariant of the machine: the buffer is in canonical form and the error registers hold a legal record. -/
abbrev MachineInv (s : State) : Prop := s.buf.wf = true ∧ ErrorRecordOk s

/-- The sum of the first `n` width registers. -/
def widthSum (s : State) (n : Nat) : Nat :=
  (((List.finRange 8).take n).map fun i => (s.w[i]).toNat).sum

/-- The widths below `NF` are legal (40_bitpacker.md R128, R129). -/
abbrev WidthsLegal (s : State) : Prop :=
  s.nf.toNat ≤ 8 ∧ ∀ i : Fin 8, i.val < s.nf.toNat → 1 ≤ (s.w[i]).toNat ∧ (s.w[i]).toNat ≤ 32

/-- `count` bytes of a buffer from address `first` on, as one big-endian number (40_bitpacker.md R132). -/
def bufNumber (m : Memory) (first count : Nat) : Nat :=
  bigEndianNumber ((List.range count).map fun j => m.read (first + j))

/-- The report at the bit positions of the body map of 20_memory.md R70, body bit 0 being bit 119 of the number. -/
def reportAtBodyBits (x : BitVec 120) : Report where
  track := x.extractLsb' 104 16
  latitudePacked := x.extractLsb' 85 19
  longitudePacked := x.extractLsb' 66 19
  trackNumber := x.extractLsb' 54 12
  altitudePacked := x.extractLsb' 40 14
  parity := x.extractLsb' 35 5
  speedMs := x.extractLsb' 19 16
  headingCdeg := x.extractLsb' 3 16

/-- The body of a report as one 120-bit pattern with zero padding (30_encoding.md R96). -/
def bodyPattern (r : Report) : BitVec 120 :=
  r.track ++ r.latitudePacked ++ r.longitudePacked ++ r.trackNumber ++ r.altitudePacked ++ r.parity ++ r.speedMs ++
    r.headingCdeg ++ 0#3

/-- The thirteen commands, in the order of the opcode map (30_encoding.md R91). -/
def commands : List Instr :=
  [.nop, .clr, .pack, .unpack, .qlat, .qlon, .qalt, .qtrk, .fromgeo, .benc, .bdec, .menc, .mdec]

/-- Two states have the same bytes below the same `LEN`. -/
abbrev SameBuffer (s s' : State) : Prop :=
  s.len = s'.len ∧ ∀ a, a < s.len.toNat → s.buf.read a = s'.buf.read a

/-- Two states agree on every register the command reads (30_encoding.md R93, second column). -/
def SameOperands (i : Instr) (s s' : State) : Prop :=
  match i with
  | .nop | .clr | .msgAirtrack _ => True
  | .pack => s.nf = s'.nf ∧ ∀ k : Fin 8, k.val < s.nf.toNat → s.v[k] = s'.v[k] ∧ s.w[k] = s'.w[k]
  | .unpack => s.nf = s'.nf ∧ (∀ k : Fin 8, k.val < s.nf.toNat → s.w[k] = s'.w[k]) ∧ SameBuffer s s'
  | .qlat => s.glat = s'.glat
  | .qlon => s.glon = s'.glon
  | .qalt => s.galt = s'.galt
  | .qtrk => s.gtrack = s'.gtrack
  | .fromgeo =>
    s.gtrack = s'.gtrack ∧ s.glat = s'.glat ∧ s.glon = s'.glon ∧ s.galt = s'.galt ∧ s.gspd = s'.gspd ∧
      s.ghdg = s'.ghdg
  | .benc => reportRegs s = reportRegs s'
  | .bdec => SameBuffer s s'
  | .menc => s.kind = s'.kind ∧ reportRegs s = reportRegs s'
  | .mdec => SameBuffer s s'

/-- Two states agree on every register the command writes when it completes (30_encoding.md R93, third column); `n` is
the `NF` the command read. -/
def SameResults (i : Instr) (n : Nat) (t t' : State) : Prop :=
  match i with
  | .nop => True
  | .clr => t.coreState = t'.coreState
  | .pack | .benc | .menc => t.buf = t'.buf ∧ t.len = t'.len
  | .unpack => ∀ k : Fin 8, k.val < n → t.v[k] = t'.v[k]
  | .qlat => t.latp = t'.latp
  | .qlon => t.lonp = t'.lonp
  | .qalt => t.altp = t'.altp
  | .qtrk => t.track = t'.track ∧ t.trkn = t'.trkn
  | .fromgeo | .bdec => reportRegs t = reportRegs t'
  | .mdec | .msgAirtrack _ => t.kind = t'.kind ∧ reportRegs t = reportRegs t'

/-- A state with the eight report registers of another. -/
def State.withReportOf (s t : State) : State := s.setReport (reportRegs t)

/-- `t` differs from `s` only in registers the command may write (30_encoding.md R93, third column), and in `STATUS`,
`EINFO0` and `EINFO1`. -/
def WritesOnlyItsRegisters (i : Instr) (s t : State) : Prop :=
  match i with
  | .nop => t = s.setOutcome t.err t.einfo0 t.einfo1
  | .clr => True
  | .pack | .benc | .menc => t = { s.setOutcome t.err t.einfo0 t.einfo1 with buf := t.buf, len := t.len }
  | .unpack =>
    t = { s.setOutcome t.err t.einfo0 t.einfo1 with v := t.v } ∧
      ∀ k : Fin 8, s.nf.toNat ≤ k.val → t.v[k] = s.v[k]
  | .qlat => t = { s.setOutcome t.err t.einfo0 t.einfo1 with latp := t.latp }
  | .qlon => t = { s.setOutcome t.err t.einfo0 t.einfo1 with lonp := t.lonp }
  | .qalt => t = { s.setOutcome t.err t.einfo0 t.einfo1 with altp := t.altp }
  | .qtrk => t = { s.setOutcome t.err t.einfo0 t.einfo1 with track := t.track, trkn := t.trkn }
  | .fromgeo | .bdec => t = (s.setOutcome t.err t.einfo0 t.einfo1).withReportOf t
  | .mdec | .msgAirtrack _ => t = { (s.setOutcome t.err t.einfo0 t.einfo1).withReportOf t with kind := t.kind }

/-- An offset at which the register map has no register (10_state.md R32). -/
abbrev Unmapped (offset : Nat) : Prop :=
  offset % 4 ≠ 0 ∨ offset = 0x01C ∨ offset = 0x038 ∨ offset = 0x03C ∨ (0x060 ≤ offset ∧ offset ≤ 0x07C) ∨
    (0x0C0 ≤ offset ∧ offset ≤ 0x0FC) ∨ 0x180 ≤ offset

/-- The nearest integer to N/D for N >= 0 and D > 0, halves to even: the tie rule that 41_quantization.md R166 compares
with the core's. -/
def roundHalfEven (n d : Int) : Int :=
  if (2 * n) % (2 * d) = d then (if n / d % 2 = 0 then n / d else n / d + 1) else (2 * n + d) / (2 * d)

end Sys2Proof.Machine
end

