-- ==== Sys2Proof/Certificates/Slice0/Obligations.lean ====
section
/-!
DEFINITION. The statements about the core for the provers. Each docstring names the rule of spec/ it formalises; `log <n>`
is notes/assumptions/<n>.md.
-/

open Sys2Proof Sys2Proof.Machine

/-! ## Reset and system commands -/

/-- 70_reset_and_hazards.md R290: after reset every register and every buffer byte holds 0. -/
def Obligations.ResetStateIsAllZero : Prop :=
  State.reset.err = 0 ∧ State.reset.einfo0 = 0 ∧ State.reset.einfo1 = 0 ∧ State.reset.nf = 0 ∧ State.reset.len = 0 ∧
  State.reset.kind = 0 ∧ (∀ i : Fin 8, State.reset.v[i] = 0) ∧ (∀ i : Fin 8, State.reset.w[i] = 0) ∧
  State.reset.gtrack = 0 ∧ State.reset.glat = 0 ∧ State.reset.glon = 0 ∧ State.reset.galt = 0 ∧
  State.reset.gspd = 0 ∧ State.reset.ghdg = 0 ∧ State.reset.track = 0 ∧ State.reset.latp = 0 ∧
  State.reset.lonp = 0 ∧ State.reset.trkn = 0 ∧ State.reset.altp = 0 ∧ State.reset.par = 0 ∧ State.reset.spd = 0 ∧
  State.reset.hdg = 0 ∧ ∀ a, State.reset.buf.read a = 0

/-- 44_system_host.md R230: `NOP` completes, clears the three error registers and touches nothing else. -/
def Obligations.NopClearsOnlyTheErrorRegisters : Prop :=
  decode (.command 0x00000000) = .ok .nop ∧
  ∀ s : State, exec .nop s = .next { s with err := 0, einfo0 := 0, einfo1 := 0 }

/-- 44_system_host.md R231: `CLR` completes in the reset state, exactly. -/
def Obligations.ClrLeavesTheResetState : Prop :=
  decode (.command 0x00000001) = .ok .clr ∧
  ∀ s : State, ∃ t, exec .clr s = .next t ∧ t.coreState = State.reset

/-! ## Decoding and the step -/

/-- 30_encoding.md R91 and R96 on words written out from them: the thirteen command words, the scenario's frame, and
words that are refused. -/
def Obligations.KnownWordsDecode : Prop :=
  (commandWords.map fun c => (decode (.command c)).toOption) =
    [some .nop, some .clr, some .pack, some .unpack, some .qlat, some .qlon, some .qalt, some .qtrk, some .fromgeo,
      some .benc, some .bdec, some .menc, some .mdec] ∧
  (decode (.frame [0x32, 0x00, 0x2A, 0xC0, 0x2C, 0xE5, 0x11, 0x58, 0x0A, 0x80, 0xC5, 0x00, 0x06, 0xE0, 0x08, 0x78])).toOption =
    some (.msgAirtrack ⟨42, 393575, 83030, 42, 197, 0, 220, 271⟩) ∧
  (decode (.command 0x00000002)).toOption = none ∧ (decode (.command 0x80000010)).toOption = none

/-- 30_encoding.md R92: a word outside the thirteen is IllegalCommand by name, and one of the thirteen decodes to the one
command that it encodes. -/
def Obligations.CommandWordsDecodeExactly : Prop :=
  ∀ c : Word,
    (c ∉ commandWords → decode (.command c) = .error (.illegalCommand c)) ∧
    (c ∈ commandWords → ∃ i, decode (.command c) = .ok i ∧ encode i = .command c)

/-- Decode and encode agree on every well-formed instruction, commands and frames: the encoder writes the bit pattern of
30_encoding.md R96, the decoder runs the envelope's bit cursor (43_envelope.md R212). -/
def Obligations.DecodeEncodeAgree : Prop :=
  ∀ i : Instr, i.wf = true → decode (encode i) = .ok i

/-- 30_encoding.md R98 (b) and (d): whatever the three padding bits hold and whatever follows the sixteenth byte, a frame
decodes to the same instruction. -/
def Obligations.FramePaddingAndTrailerAreIgnored : Prop :=
  ∀ (r : Report) (padding : BitVec 3) (trailer : List Byte),
    decode (.frame (frameBytesOf (frameBits r ||| padding.setWidth 128) ++ trailer)) = .ok (.msgAirtrack r)

/-- A step runs the decoded command: when the next event is a host write of a command word (log 1), the step is `exec` of
the decoded command on the state with that event taken. -/
def Obligations.StepRunsTheDecodedCommand : Prop :=
  ∀ (s : State) (c : Word) (rest : List HostEvent) (i : Instr),
    s.pending = .write 0x000 c :: rest → decode (.command c) = .ok i → step s = exec i { s with pending := rest }

/-- A step runs the decoded frame: when the next event writes `MDEC` and the bytes below `LEN` decode as a frame, the step
is `exec` of that frame (log 4) on the state with the event taken. -/
def Obligations.StepRunsTheFrameInTheBuffer : Prop :=
  ∀ (s : State) (rest : List HostEvent) (i : Instr),
    s.pending = .write 0x000 0x00000041 :: rest → s.len.toNat ≤ 32 →
    decode (.frame ((List.range s.len.toNat).map s.buf.read)) = .ok i → step s = exec i { s with pending := rest }

/-- The other steps of the model (logs 1, 2, 3 and 5): with nothing pending the core holds its registers; a host read
changes no register and hands over its word; a host write is the write of 44_system_host.md R233; the reset input gives
the reset state. -/
def Obligations.StepTakesTheOtherEvents : Prop :=
  ∀ s : State,
    (s.pending = [] → step s = .next s) ∧
    (∀ offset rest, s.pending = .read offset :: rest →
      step s = .next { s with pending := rest, returned := s.returned ++ [hostRead s offset] }) ∧
    (∀ offset d rest, s.pending = .write offset d :: rest →
      step s = hostWrite offset d { s with pending := rest }) ∧
    (∀ rest, s.pending = .reset :: rest → ∃ t, step s = .next t ∧ t.coreState = State.reset ∧ t.pending = rest)

/-- 44_system_host.md R235 in the model's one step (log 1): from every state every run of every length has a next state;
nothing stops, hangs, faults or is refused. -/
def Obligations.EveryRunHasANextState : Prop :=
  ∀ (k : Nat) (s : State), ∃ t, core.run k s = .next t

/-! ## Errors -/

/-- 60_exceptions.md R254: a word that is not one of the thirteen raises IllegalCommand, `EINFO0` is the word, and nothing
else changes. -/
def Obligations.IllegalCommandRaises : Prop :=
  ∀ (c : Word) (s : State), c ∉ commandWords →
    execute c s = .next { s with err := 4, einfo0 := c, einfo1 := 0 }

/-- 60_exceptions.md R257: an instruction that raises has no effect but the three error registers, and one that completes
clears them. -/
def Obligations.ErrorsChangeNothingElse : Prop :=
  ∀ (i : Instr) (s t : State), exec i s = .next t →
    (t.err ≠ 0 → t = { s with err := t.err, einfo0 := t.einfo0, einfo1 := t.einfo1 }) ∧
    (t.err = 0 → t.einfo0 = 0 ∧ t.einfo1 = 0)

/-- 10_state.md R27 and 60_exceptions.md R261: what the error registers hold changes nothing that an instruction does. -/
def Obligations.ErrorRegistersNeverInfluence : Prop :=
  ∀ (i : Instr) (s : State) (code : Byte) (a b : Word),
    exec i { s with err := code, einfo0 := a, einfo1 := b } = exec i s

/-- 30_encoding.md R93: a command's registers are the ones listed for it and no others. Whatever else two states hold, if
they agree on the registers a command reads, the command ends with the same error registers in both and, when it
completes, with the same contents of the registers it writes; and it writes no other register. -/
def Obligations.CommandsUseOnlyTheirOperands : Prop :=
  ∀ i ∈ commands, ∀ s s' t t' : State, exec i s = .next t → exec i s' = .next t' →
    WritesOnlyItsRegisters i s t ∧
    (SameOperands i s s' →
      t.err = t'.err ∧ t.einfo0 = t'.einfo0 ∧ t.einfo1 = t'.einfo1 ∧ (t.err = 0 → SameResults i s.nf.toNat t t'))

/-- Every step keeps the invariant: the buffer's canonical form, and the legal records of `STATUS`, `EINFO0` and `EINFO1`
(10_state.md R27, R28). -/
def Obligations.EveryStepKeepsMachineInv : Prop :=
  ∀ s t : State, MachineInv s → step s = .next t → MachineInv t

/-- The invariant holds at reset. -/
def Obligations.MachineInvAtReset : Prop := MachineInv State.reset

/-! ## The host port -/

/-- 44_system_host.md R232 over the register map of 10_state.md R32: what a host read gives at every offset, mapped or
not. -/
def Obligations.HostReadsTheRegisterMap : Prop :=
  ∀ s : State,
    hostRead s 0x000 = 0 ∧ hostRead s 0x004 = s.err.setWidth 32 ∧ hostRead s 0x008 = s.einfo0 ∧
    hostRead s 0x00C = s.einfo1 ∧ hostRead s 0x010 = s.nf ∧ hostRead s 0x014 = s.len ∧
    hostRead s 0x018 = s.kind.setWidth 32 ∧ hostRead s 0x020 = s.gtrack.setWidth 32 ∧ hostRead s 0x024 = s.glat ∧
    hostRead s 0x028 = s.glon ∧ hostRead s 0x02C = s.galt ∧ hostRead s 0x030 = s.gspd.setWidth 32 ∧
    hostRead s 0x034 = s.ghdg.setWidth 32 ∧ hostRead s 0x040 = s.track.setWidth 32 ∧
    hostRead s 0x044 = s.latp.setWidth 32 ∧ hostRead s 0x048 = s.lonp.setWidth 32 ∧
    hostRead s 0x04C = s.trkn.setWidth 32 ∧ hostRead s 0x050 = s.altp.setWidth 32 ∧
    hostRead s 0x054 = s.par.setWidth 32 ∧ hostRead s 0x058 = s.spd.setWidth 32 ∧
    hostRead s 0x05C = s.hdg.setWidth 32 ∧ (∀ i : Fin 8, hostRead s (0x080 + 4 * i.val) = s.v[i]) ∧
    (∀ i : Fin 8, hostRead s (0x0A0 + 4 * i.val) = s.w[i]) ∧
    (∀ i : Fin 32, hostRead s (0x100 + 4 * i.val) = (s.buf.read i.val).setWidth 32) ∧
    ∀ offset, Unmapped offset → hostRead s offset = 0

/-- 44_system_host.md R233: a host write to `CMD` executes the word; one to a read-write register of width N stores the low
N bits there, and no host read anywhere else then gives anything new; one to a read-only register or to an unmapped
offset has no effect. -/
def Obligations.HostWriteStoresTheLowBits : Prop :=
  ∀ (s : State) (d : Word),
    hostWrite 0x000 d s = execute d s ∧
    (∀ r : HostReg, hostAccess r = .readWrite →
      ∃ t, hostWrite (hostOffset r) d s = .next t ∧
        (hostRead t (hostOffset r)).toNat = d.toNat % 2 ^ hostWidth r ∧
        ∀ offset, offset ≠ hostOffset r → hostRead t offset = hostRead s offset) ∧
    (∀ offset, (offset ∈ [0x004, 0x008, 0x00C] ∨ Unmapped offset) → hostWrite offset d s = .next s)

/-! ## The bit packer -/

/-- 40_bitpacker.md R121: `put_field` writes the bits of the value at its stream bits, most significant first, and leaves
every other bit as it was. -/
def Obligations.PutFieldWritesExactlyItsBits : Prop :=
  ∀ (b : List Byte) (c v w : Nat), c + w ≤ 8 * b.length → 1 ≤ w → w ≤ 32 → v < 2 ^ w →
    (putField b c v w).length = b.length ∧
    ∀ k, streamBit (putField b c v w) k = if c ≤ k ∧ k < c + w then v.testBit (w - 1 - (k - c)) else streamBit b k

/-- 40_bitpacker.md R127: `get_field` returns the unsigned integer whose bits, most significant first, are the stream bits
of the field; it is below 2^w. -/
def Obligations.GetFieldReadsExactlyItsBits : Prop :=
  ∀ (b : List Byte) (c w : Nat), c + w ≤ 8 * b.length → 1 ≤ w → w ≤ 32 →
    getField b c w < 2 ^ w ∧ ∀ t, t < w → (getField b c w).testBit (w - 1 - t) = streamBit b (c + t)

/-- 40_bitpacker.md R120 and R122, 20_memory.md R62: the output of `pack` has ceil(T/8) bytes, field `i` at the stream
bits after those of the fields before it, most significant bit first, and zero bits after the last field. -/
def Obligations.PackOutputBits : Prop :=
  ∀ fields : List BitField,
    (pack fields).length = (totalBits (fields.map (·.width)) + 7) / 8 ∧
    (∀ (i : Nat) (f : BitField), fields[i]? = some f → ∀ t, t < f.width.bits →
      streamBit (pack fields) (totalBits ((fields.take i).map (·.width)) + t) =
        f.value.testBit (f.width.bits - 1 - t)) ∧
    ∀ k, totalBits (fields.map (·.width)) ≤ k → streamBit (pack fields) k = false

/-- 40_bitpacker.md R125: `ShortBuffer` exactly when the buffer has fewer bits than the widths sum to, with these two
numbers; any other `unpack` succeeds. -/
def Obligations.UnpackShortBufferExactly : Prop :=
  ∀ (b : List Byte) (ws : List Width),
    (8 * b.length < totalBits ws → unpack b ws = .error (.shortBuffer (totalBits ws) (8 * b.length))) ∧
    (totalBits ws ≤ 8 * b.length → ∃ vs, unpack b ws = .ok vs ∧ vs.length = ws.length)

/-- 40_bitpacker.md R126: stream bits after the last field are never read: two buffers that are long enough and agree on
the needed bits unpack alike. -/
def Obligations.UnpackReadsOnlyTheNeededBits : Prop :=
  ∀ (b b' : List Byte) (ws : List Width), totalBits ws ≤ 8 * b.length → totalBits ws ≤ 8 * b'.length →
    (∀ k, k < totalBits ws → streamBit b k = streamBit b' k) → unpack b ws = unpack b' ws

/-- 40_bitpacker.md R130: unpacking what was packed, with any bytes after it, gives the values back; and packing what was
unpacked gives the bytes back, with the bits after the last field cleared. -/
def Obligations.PackAndUnpackRoundTrip : Prop :=
  (∀ (fields : List BitField) (x : List Byte),
    unpack (pack fields ++ x) (fields.map (·.width)) = .ok (fields.map (·.value))) ∧
  (∀ (b : List Byte) (ws : List Width) (vs : List Nat), totalBits ws ≤ 8 * b.length → unpack b ws = .ok vs →
    ∃ fields : List BitField, fields.map (·.width) = ws ∧ fields.map (·.value) = vs ∧
      (pack fields).length = (totalBits ws + 7) / 8 ∧
      ∀ k, streamBit (pack fields) k = (decide (k < totalBits ws) && streamBit b k))

/-- 40_bitpacker.md R131: the byte-at-a-time writer and reader agree with `put_field` and `get_field` on every legal
field, within the iterations the rule counts, 1 to 5. -/
def Obligations.ByteAtATimeFormsAgree : Prop :=
  ∀ (b : List Byte) (c v w : Nat), c + w ≤ 8 * b.length → 1 ≤ w → w ≤ 32 → v < 2 ^ w →
    1 ≤ (c + w - 1) / 8 - c / 8 + 1 ∧ (c + w - 1) / 8 - c / 8 + 1 ≤ 5 ∧
    putFieldBytesLoop ((c + w - 1) / 8 - c / 8 + 1) b c v w = putField b c v w ∧
    putFieldBytes b c v w = putField b c v w ∧
    getFieldBytesLoop ((c + w - 1) / 8 - c / 8 + 1) b c 0 w = getField b c w ∧
    getFieldBytes b c w = getField b c w

/-- 40_bitpacker.md R132, 20_memory.md R63 (b): `pack` is the big-endian byte string of the concatenated fields shifted up
by the padding, and an unpacked value is a slice of the buffer read as one big-endian number. -/
def Obligations.WholeNumberFormsAgree : Prop :=
  (∀ fields : List BitField, pack fields = packNumber fields) ∧
  (∀ (b : List Byte) (ws : List Width) (vs : List Nat), totalBits ws ≤ 8 * b.length → unpack b ws = .ok vs →
    vs.length = ws.length ∧
    ∀ (i : Nat) (w : Width), ws[i]? = some w →
      vs[i]? = some ((bigEndianNumber b >>> (8 * b.length - totalBits (ws.take i) - w.bits)) % 2 ^ w.bits))

/-- 40_bitpacker.md R128. With a legal field table `PACK` completes: `BUF` holds the packed fields and then zeros, `LEN`
their length, and nothing else changes but the cleared error registers. Otherwise it raises, in the order tested: `NF`,
the first illegal width, the first value that does not fit. -/
def Obligations.PackPacksTheFieldTable : Prop :=
  decode (.command 0x00000010) = .ok .pack ∧
  ∀ s : State,
    (WidthsLegal s → (∀ i : Fin 8, i.val < s.nf.toNat → (s.v[i]).toNat < 2 ^ (s.w[i]).toNat) →
      ∃ (fields : List BitField) (t : State),
        fields.map (fun f => (f.value, f.width.bits)) =
          ((List.finRange 8).take s.nf.toNat).map (fun i => ((s.v[i]).toNat, (s.w[i]).toNat)) ∧
        exec .pack s = .next t ∧
        t = { s with buf := t.buf, len := t.len, err := 0, einfo0 := 0, einfo1 := 0 } ∧
        t.len.toNat = (widthSum s s.nf.toNat + 7) / 8 ∧ t.len.toNat ≤ 32 ∧ t.buf.wf = true ∧
        ∀ j, t.buf.read j = (pack fields).getD j 0) ∧
    (8 < s.nf.toNat → exec .pack s = .next { s with err := 5, einfo0 := 1, einfo1 := s.nf }) ∧
    (∀ i : Fin 8, s.nf.toNat ≤ 8 → i.val < s.nf.toNat → ¬ (1 ≤ (s.w[i]).toNat ∧ (s.w[i]).toNat ≤ 32) →
      (∀ j : Fin 8, j < i → 1 ≤ (s.w[j]).toNat ∧ (s.w[j]).toNat ≤ 32) →
      exec .pack s = .next { s with err := 5, einfo0 := 2, einfo1 := BitVec.ofNat 32 i.val }) ∧
    (∀ i : Fin 8, WidthsLegal s → i.val < s.nf.toNat → 2 ^ (s.w[i]).toNat ≤ (s.v[i]).toNat →
      (∀ j : Fin 8, j < i → (s.v[j]).toNat < 2 ^ (s.w[j]).toNat) →
      exec .pack s = .next { s with err := 6, einfo0 := BitVec.ofNat 32 i.val, einfo1 := 0 })

/-- 40_bitpacker.md R129. With legal widths and a buffer that is long enough `UNPACK` completes: `V[i]` for i < `NF` becomes
the slice of the buffer, read as one big-endian number, that R132 names, zero-extended, and nothing else changes but the
cleared error registers. Otherwise it raises, in the order tested: `NF`, the first illegal width, `LEN`, the short
buffer. -/
def Obligations.UnpackReadsTheBuffer : Prop :=
  decode (.command 0x00000011) = .ok .unpack ∧
  ∀ s : State,
    (WidthsLegal s → s.len.toNat ≤ 32 → widthSum s s.nf.toNat ≤ 8 * s.len.toNat →
      ∃ t, exec .unpack s = .next t ∧ t = { s with v := t.v, err := 0, einfo0 := 0, einfo1 := 0 } ∧
        ∀ i : Fin 8,
          (t.v[i]).toNat =
            if i.val < s.nf.toNat then
              (bufNumber s.buf 0 s.len.toNat >>> (8 * s.len.toNat - widthSum s i.val - (s.w[i]).toNat)) %
                2 ^ (s.w[i]).toNat
            else (s.v[i]).toNat) ∧
    (8 < s.nf.toNat → exec .unpack s = .next { s with err := 5, einfo0 := 1, einfo1 := s.nf }) ∧
    (∀ i : Fin 8, s.nf.toNat ≤ 8 → i.val < s.nf.toNat → ¬ (1 ≤ (s.w[i]).toNat ∧ (s.w[i]).toNat ≤ 32) →
      (∀ j : Fin 8, j < i → 1 ≤ (s.w[j]).toNat ∧ (s.w[j]).toNat ≤ 32) →
      exec .unpack s = .next { s with err := 5, einfo0 := 2, einfo1 := BitVec.ofNat 32 i.val }) ∧
    (WidthsLegal s → 32 < s.len.toNat → exec .unpack s = .next { s with err := 5, einfo0 := 3, einfo1 := s.len }) ∧
    (WidthsLegal s → s.len.toNat ≤ 32 → 8 * s.len.toNat < widthSum s s.nf.toNat →
      exec .unpack s = .next { s with
        err := 1, einfo0 := BitVec.ofNat 32 (widthSum s s.nf.toNat), einfo1 := BitVec.ofNat 32 (8 * s.len.toNat) })

/-- The round trip of 40_bitpacker.md R130 on the registers (70_reset_and_hazards.md R294): after a `PACK` that completes,
`UNPACK` completes and changes nothing at all. -/
def Obligations.UnpackAfterPackChangesNothing : Prop :=
  ∀ s t : State, exec .pack s = .next t → t.err = 0 → exec .unpack t = .next t

/-! ## The quantizers -/

/-- 41_quantization.md R150 to R153: in its domain each quantizer gives the integer nearest to N/D, halves up (which is
away from zero, N being non-negative), and outside it the overflow error of its field. -/
def Obligations.QuantizersRoundToTheNearestCode : Prop :=
  (∀ x c : Int, qLat x = .ok c ↔ (-900000000 ≤ x ∧ x ≤ 900000000) ∧
    2 * 1800000000 * c ≤ 2 * ((x + 900000000) * 524287) + 1800000000 ∧
    2 * ((x + 900000000) * 524287) + 1800000000 < 2 * 1800000000 * (c + 1)) ∧
  (∀ x : Int, (x < -900000000 ∨ 900000000 < x) → qLat x = .error (.quantizationOverflow .latitude)) ∧
  (∀ x c : Int, qLon x = .ok c ↔ (-1800000000 ≤ x ∧ x ≤ 1800000000) ∧
    2 * 3600000000 * c ≤ 2 * ((x + 1800000000) * 524287) + 3600000000 ∧
    2 * ((x + 1800000000) * 524287) + 3600000000 < 2 * 3600000000 * (c + 1)) ∧
  (∀ x : Int, (x < -1800000000 ∨ 1800000000 < x) → qLon x = .error (.quantizationOverflow .longitude)) ∧
  (∀ x c : Int, qAlt x = .ok c ↔ (0 ≤ x ∧ x ≤ 124838456) ∧
    2 * 2500000000 * c ≤ 2 * (x * 328084) + 2500000000 ∧
    2 * (x * 328084) + 2500000000 < 2 * 2500000000 * (c + 1)) ∧
  (∀ x : Int, (x < 0 ∨ 124838456 < x) → qAlt x = .error (.quantizationOverflow .altitude))

/-- 41_quantization.md R164: every in-domain input gives a code that fits its report register, and each quantizer is
non-decreasing over its domain. -/
def Obligations.QuantizerRangeSoundness : Prop :=
  (∀ x : Int, -900000000 ≤ x → x ≤ 900000000 → ∃ c, qLat x = .ok c ∧ 0 ≤ c ∧ c ≤ 524287) ∧
  (∀ x : Int, -1800000000 ≤ x → x ≤ 1800000000 → ∃ c, qLon x = .ok c ∧ 0 ≤ c ∧ c ≤ 524287) ∧
  (∀ x : Int, 0 ≤ x → x ≤ 124838456 → ∃ c, qAlt x = .ok c ∧ 0 ≤ c ∧ c ≤ 16383) ∧
  (∀ x y c d : Int, x ≤ y → qLat x = .ok c → qLat y = .ok d → c ≤ d) ∧
  (∀ x y c d : Int, x ≤ y → qLon x = .ok c → qLon y = .ok d → c ≤ d) ∧
  (∀ x y c d : Int, x ≤ y → qAlt x = .ok c → qAlt y = .ok d → c ≤ d)

/-- 41_quantization.md R166: N/D is a half-integer for the in-domain input 0 of latitude and of longitude and for no other
input, and rounding halves to even gives the same code everywhere in the domains. -/
def Obligations.TiesOnlyAtTheOrigin : Prop :=
  (∀ x : Int, -900000000 ≤ x → x ≤ 900000000 →
    ((2 * ((x + 900000000) * 524287)) % (2 * 1800000000) = 1800000000 ↔ x = 0) ∧
    qLat x = .ok (roundHalfEven ((x + 900000000) * 524287) 1800000000)) ∧
  (∀ x : Int, -1800000000 ≤ x → x ≤ 1800000000 →
    ((2 * ((x + 1800000000) * 524287)) % (2 * 3600000000) = 3600000000 ↔ x = 0) ∧
    qLon x = .ok (roundHalfEven ((x + 1800000000) * 524287) 3600000000)) ∧
  (∀ x : Int, 0 ≤ x → x ≤ 124838456 →
    (2 * (x * 328084)) % (2 * 2500000000) ≠ 2500000000 ∧
    qAlt x = .ok (roundHalfEven (x * 328084) 2500000000))

/-- 41_quantization.md R165: in the domains the largest intermediate values are these, and a 64-bit unsigned datapath that
multiplies, adds half the divisor and divides gives the codes. -/
def Obligations.SixtyFourBitDatapathSuffices : Prop :=
  (∀ x c : Int, qLat x = .ok c →
    (x + 900000000) * 524287 + 900000000 ≤ 943717500000000 ∧
    (((BitVec.ofInt 64 (x + 900000000) * 524287#64 + 900000000#64) / 1800000000#64).toNat : Int) = c) ∧
  (∀ x c : Int, qLon x = .ok c →
    (x + 1800000000) * 524287 + 1800000000 ≤ 1887435000000000 ∧
    (((BitVec.ofInt 64 (x + 1800000000) * 524287#64 + 1800000000#64) / 3600000000#64).toNat : Int) = c) ∧
  (∀ x c : Int, qAlt x = .ok c →
    x * 328084 + 1250000000 ≤ 40958749998304 ∧
    (((BitVec.ofInt 64 x * 328084#64 + 1250000000#64) / 2500000000#64).toNat : Int) = c)

/-- 41_quantization.md R160: in its domain `GLAT` is quantized into `LATP`, and nothing else changes but the cleared error
registers; outside it the overflow is raised, and nothing else changes. -/
def Obligations.QlatQuantizesOrRaises : Prop :=
  decode (.command 0x00000020) = .ok .qlat ∧
  ∀ s : State,
    (-900000000 ≤ signed32 s.glat → signed32 s.glat ≤ 900000000 →
      exec .qlat s = .next { s with
        latp := BitVec.ofInt 19 (((signed32 s.glat + 900000000) * 524287 + 900000000) / 1800000000)
        err := 0, einfo0 := 0, einfo1 := 0 }) ∧
    ((signed32 s.glat < -900000000 ∨ 900000000 < signed32 s.glat) →
      exec .qlat s = .next { s with err := 3, einfo0 := 1, einfo1 := 0 })

/-- 41_quantization.md R161: in its domain `GLON` is quantized into `LONP`, and nothing else changes but the cleared error
registers; outside it the overflow is raised, and nothing else changes. -/
def Obligations.QlonQuantizesOrRaises : Prop :=
  decode (.command 0x00000021) = .ok .qlon ∧
  ∀ s : State,
    (-1800000000 ≤ signed32 s.glon → signed32 s.glon ≤ 1800000000 →
      exec .qlon s = .next { s with
        lonp := BitVec.ofInt 19 (((signed32 s.glon + 1800000000) * 524287 + 1800000000) / 3600000000)
        err := 0, einfo0 := 0, einfo1 := 0 }) ∧
    ((signed32 s.glon < -1800000000 ∨ 1800000000 < signed32 s.glon) →
      exec .qlon s = .next { s with err := 3, einfo0 := 2, einfo1 := 0 })

/-- 41_quantization.md R162: in its domain `GALT` is quantized into `ALTP`, and nothing else changes but the cleared error
registers; outside it the overflow is raised, and nothing else changes. -/
def Obligations.QaltQuantizesOrRaises : Prop :=
  decode (.command 0x00000022) = .ok .qalt ∧
  ∀ s : State,
    (0 ≤ signed32 s.galt → signed32 s.galt ≤ 124838456 →
      exec .qalt s = .next { s with
        altp := BitVec.ofInt 14 ((signed32 s.galt * 328084 + 1250000000) / 2500000000)
        err := 0, einfo0 := 0, einfo1 := 0 }) ∧
    ((signed32 s.galt < 0 ∨ 124838456 < signed32 s.galt) →
      exec .qalt s = .next { s with err := 3, einfo0 := 3, einfo1 := 0 })

/-- 41_quantization.md R163: `GTRACK` is copied to `TRACK` and its low 12 bits to `TRKN`, from every state. -/
def Obligations.QtrkCopiesTheTrack : Prop :=
  decode (.command 0x00000023) = .ok .qtrk ∧
  ∀ s : State,
    exec .qtrk s = .next { s with
      track := s.gtrack, trkn := s.gtrack.extractLsb' 0 12, err := 0, einfo0 := 0, einfo1 := 0 }

/-! ## The air-track body -/

/-- 42_airtrack_body.md R180: what report `from_geo` builds when latitude, longitude and altitude are in their domains, and
which of them, in this order, it reports when one is not. -/
def Obligations.FromGeoBuildsTheReport : Prop :=
  ∀ (track : BitVec 16) (lat lon alt : Int) (spd hdg : BitVec 16),
    (-900000000 ≤ lat → lat ≤ 900000000 → -1800000000 ≤ lon → lon ≤ 1800000000 → 0 ≤ alt → alt ≤ 124838456 →
      fromGeo track lat lon alt spd hdg = .ok {
        track := track
        latitudePacked := BitVec.ofInt 19 (((lat + 900000000) * 524287 + 900000000) / 1800000000)
        longitudePacked := BitVec.ofInt 19 (((lon + 1800000000) * 524287 + 1800000000) / 3600000000)
        trackNumber := track.extractLsb' 0 12
        altitudePacked := BitVec.ofInt 14 ((alt * 328084 + 1250000000) / 2500000000)
        parity := 0, speedMs := spd, headingCdeg := hdg }) ∧
    ((lat < -900000000 ∨ 900000000 < lat) →
      fromGeo track lat lon alt spd hdg = .error (.quantizationOverflow .latitude)) ∧
    (-900000000 ≤ lat → lat ≤ 900000000 → (lon < -1800000000 ∨ 1800000000 < lon) →
      fromGeo track lat lon alt spd hdg = .error (.quantizationOverflow .longitude)) ∧
    (-900000000 ≤ lat → lat ≤ 900000000 → -1800000000 ≤ lon → lon ≤ 1800000000 → (alt < 0 ∨ 124838456 < alt) →
      fromGeo track lat lon alt spd hdg = .error (.quantizationOverflow .altitude))

/-- 42_airtrack_body.md R181: with the three inputs in their domains `FROMGEO` writes all eight report registers, `PAR`
with 0, and nothing else but the cleared error registers. -/
def Obligations.FromgeoCompletes : Prop :=
  ∀ s : State, -900000000 ≤ signed32 s.glat → signed32 s.glat ≤ 900000000 →
    -1800000000 ≤ signed32 s.glon → signed32 s.glon ≤ 1800000000 →
    0 ≤ signed32 s.galt → signed32 s.galt ≤ 124838456 →
    exec .fromgeo s = .next { s with
      track := s.gtrack
      latp := BitVec.ofInt 19 (((signed32 s.glat + 900000000) * 524287 + 900000000) / 1800000000)
      lonp := BitVec.ofInt 19 (((signed32 s.glon + 1800000000) * 524287 + 1800000000) / 3600000000)
      trkn := s.gtrack.extractLsb' 0 12
      altp := BitVec.ofInt 14 ((signed32 s.galt * 328084 + 1250000000) / 2500000000)
      par := 0, spd := s.gspd, hdg := s.ghdg, err := 0, einfo0 := 0, einfo1 := 0 }

/-- 42_airtrack_body.md R181, 60_exceptions.md R259: `FROMGEO` reports the first input out of its domain in the order
latitude, longitude, altitude, and changes nothing else. -/
def Obligations.FromgeoRaisesTheFirstOverflow : Prop :=
  ∀ s : State,
    ((signed32 s.glat < -900000000 ∨ 900000000 < signed32 s.glat) →
      exec .fromgeo s = .next { s with err := 3, einfo0 := 1, einfo1 := 0 }) ∧
    (-900000000 ≤ signed32 s.glat → signed32 s.glat ≤ 900000000 →
      (signed32 s.glon < -1800000000 ∨ 1800000000 < signed32 s.glon) →
      exec .fromgeo s = .next { s with err := 3, einfo0 := 2, einfo1 := 0 }) ∧
    (-900000000 ≤ signed32 s.glat → signed32 s.glat ≤ 900000000 →
      -1800000000 ≤ signed32 s.glon → signed32 s.glon ≤ 1800000000 →
      (signed32 s.galt < 0 ∨ 124838456 < signed32 s.galt) →
      exec .fromgeo s = .next { s with err := 3, einfo0 := 3, einfo1 := 0 })

/-- 42_airtrack_body.md R181: `FROMGEO` is `QLAT`, `QLON`, `QALT`, `QTRK` and three host writes, when all of them
complete. -/
def Obligations.FromgeoIsTheSeparateCommands : Prop :=
  ∀ s s1 s2 s3 s4 : State,
    exec .qlat s = .next s1 → exec .qlon s1 = .next s2 → exec .qalt s2 = .next s3 → exec .qtrk s3 = .next s4 →
    s1.err = 0 → s2.err = 0 → s3.err = 0 →
    exec .fromgeo s = .next { s4 with spd := s.gspd, hdg := s.ghdg, par := 0 }

/-- 42_airtrack_body.md R188: every report that `from_geo`, `FROMGEO` or `QTRK` produces has the low 12 bits of its track as
its track number; a decoded report and report registers the host wrote need not. -/
def Obligations.TrackNumberMaskingLaw : Prop :=
  (∀ (track spd hdg : BitVec 16) (lat lon alt : Int) (r : Report), fromGeo track lat lon alt spd hdg = .ok r →
    r.track = track ∧ r.trackNumber.toNat = track.toNat % 4096) ∧
  (∀ s t : State, exec .fromgeo s = .next t → t.err = 0 → t.trkn.toNat = t.track.toNat % 4096) ∧
  (∀ s t : State, exec .qtrk s = .next t → t.trkn.toNat = t.track.toNat % 4096) ∧
  (∃ s t : State, exec .bdec s = .next t ∧ t.err = 0 ∧ t.trkn.toNat ≠ t.track.toNat % 4096) ∧
  (∃ s t : State, hostWrite 0x04C 1 s = .next t ∧ t.trkn.toNat ≠ t.track.toNat % 4096)

/-- 42_airtrack_body.md R182 with the bit pattern of 30_encoding.md R96: `body_encode` gives the fifteen bytes of the
report's fields in order and three zero bits. -/
def Obligations.BodyEncodeBits : Prop :=
  ∀ r : Report, bodyEncode airTrackLayout r =
    (List.range 15).map fun j =>
      (r.track ++ r.latitudePacked ++ r.longitudePacked ++ r.trackNumber ++ r.altitudePacked ++ r.parity ++ r.speedMs ++
        r.headingCdeg ++ 0#3 : BitVec 120).extractLsb' (8 * (14 - j)) 8

/-- 42_airtrack_body.md R184 with the body map of 20_memory.md R70: fourteen bytes or fewer are a short buffer, fifteen or
more decode to the slices of the first fifteen. -/
def Obligations.BodyDecodeOutcomes : Prop :=
  ∀ b : List Byte,
    (b.length ≤ 14 → bodyDecode airTrackLayout b = .error (.shortBuffer 117 (8 * b.length))) ∧
    (15 ≤ b.length →
      bodyDecode airTrackLayout b = .ok (reportAtBodyBits (BitVec.ofNat 120 (bigEndianNumber (b.take 15)))))

/-- 42_airtrack_body.md R183 with the bit pattern of 30_encoding.md R96: from every state `BENC` writes the fifteen bytes of
the report registers and seventeen zeros, `LEN` becomes 15, and nothing else changes but the cleared error registers. -/
def Obligations.BencEncodesTheBody : Prop :=
  decode (.command 0x00000031) = .ok .benc ∧
  ∀ s : State, ∃ t, exec .benc s = .next t ∧
    t = { s with buf := t.buf, len := 15, err := 0, einfo0 := 0, einfo1 := 0 } ∧ t.buf.wf = true ∧
    ∀ j, t.buf.read j =
      if j < 15 then
        (s.track ++ s.latp ++ s.lonp ++ s.trkn ++ s.altp ++ s.par ++ s.spd ++ s.hdg ++ 0#3 : BitVec 120).extractLsb'
          (8 * (14 - j)) 8
      else 0

/-- 42_airtrack_body.md R185 with the body map of 20_memory.md R70: with 15 to 32 bytes `BDEC` writes the eight report
registers from the slices of the first fifteen bytes, and nothing else but the cleared error registers; with any other
`LEN` it raises. -/
def Obligations.BdecDecodesTheBody : Prop :=
  decode (.command 0x00000032) = .ok .bdec ∧
  ∀ s : State,
    (15 ≤ s.len.toNat → s.len.toNat ≤ 32 →
      ∀ r : Report, r = reportAtBodyBits (BitVec.ofNat 120 (bufNumber s.buf 0 15)) →
        exec .bdec s = .next { s with
          track := r.track, latp := r.latitudePacked, lonp := r.longitudePacked, trkn := r.trackNumber
          altp := r.altitudePacked, par := r.parity, spd := r.speedMs, hdg := r.headingCdeg
          err := 0, einfo0 := 0, einfo1 := 0 }) ∧
    (32 < s.len.toNat → exec .bdec s = .next { s with err := 5, einfo0 := 3, einfo1 := s.len }) ∧
    (s.len.toNat ≤ 14 →
      exec .bdec s = .next { s with err := 1, einfo0 := 117, einfo1 := BitVec.ofNat 32 (8 * s.len.toNat) })

/-- 42_airtrack_body.md R187: the round trip of the body codec, with any bytes after the body; its other direction up to
padding; and the round trip on the registers. -/
def Obligations.BodyRoundTrip : Prop :=
  (∀ (r : Report) (x : List Byte),
    bodyDecode airTrackLayout (bodyEncode airTrackLayout r ++ x) = .ok r) ∧
  (∀ (b : List Byte) (r : Report), 15 ≤ b.length → bodyDecode airTrackLayout b = .ok r →
    bodyEncode airTrackLayout r = b.take 14 ++ [b.getD 14 0 &&& 0xF8#8]) ∧
  (∀ s : State, ∃ t u, exec .benc s = .next t ∧ exec .bdec t = .next u ∧ u.err = 0 ∧ reportRegs u = reportRegs s)

/-- The round trip for every value of the parameter `LAYOUT` that has the eight fields in some order (00_scope.md R7,
92_eei_decisions.md D35). -/
def Obligations.EveryLayoutRoundTrips : Prop :=
  ∀ layout : Layout, layout.wf = true → ∀ (r : Report) (x : List Byte),
    bodyDecode layout (bodyEncode layout r ++ x) = .ok r

/-- 42_airtrack_body.md R189: `body_encode` is one-to-one, and `from_geo` is not. -/
def Obligations.BodyEncodeIsInjectiveFromGeoIsNot : Prop :=
  (∀ r r' : Report, bodyEncode airTrackLayout r = bodyEncode airTrackLayout r' → r = r') ∧
  ∃ (lat lat' : Int) (r : Report), lat ≠ lat' ∧ fromGeo 42 lat 0 0 220 271 = .ok r ∧
    fromGeo 42 lat' 0 0 220 271 = .ok r

/-! ## The envelope -/

/-- 43_envelope.md R212 and R217: the outcome of `env_decode` on every byte sequence. -/
def Obligations.EnvelopeDecodeOutcomes : Prop :=
  envDecode adsRegistry [] = .error (.shortBuffer 8 0) ∧
  (∀ (tag : Byte) (body : List Byte), tag ≠ 0x32 → envDecode adsRegistry (tag :: body) = .error (.unsupportedKind tag)) ∧
  (∀ body : List Byte, body.length ≤ 14 →
    envDecode adsRegistry (0x32 :: body) = .error (.shortBuffer 117 (8 * body.length))) ∧
  (∀ body : List Byte, 15 ≤ body.length →
    envDecode adsRegistry (0x32 :: body) =
      .ok (.airTrack (reportAtBodyBits (BitVec.ofNat 120 (bigEndianNumber (body.take 15))))))

/-- 43_envelope.md R211 with the bit pattern of 30_encoding.md R96: with `KIND` = 0x32 `MENC` writes the sixteen bytes of
the frame and sixteen zeros, `LEN` becomes 16, and nothing else changes but the cleared error registers; with any other
`KIND` it raises UnsupportedKind, and nothing else changes. -/
def Obligations.MencEncodesTheFrame : Prop :=
  decode (.command 0x00000040) = .ok .menc ∧
  ∀ s : State,
    (s.kind = 0x32 → ∃ t, exec .menc s = .next t ∧
      t = { s with buf := t.buf, len := 16, err := 0, einfo0 := 0, einfo1 := 0 } ∧ t.buf.wf = true ∧
      ∀ j, t.buf.read j =
        if j < 16 then
          (0x32#8 ++ s.track ++ s.latp ++ s.lonp ++ s.trkn ++ s.altp ++ s.par ++ s.spd ++ s.hdg ++ 0#3 :
            BitVec 128).extractLsb' (8 * (15 - j)) 8
        else 0) ∧
    (s.kind ≠ 0x32 → exec .menc s = .next { s with err := 2, einfo0 := s.kind.setWidth 32, einfo1 := 0 })

/-- 43_envelope.md R213 with the frame map of 20_memory.md R70: with the tag 0x32 and 16 to 32 bytes `MDEC` writes `KIND`
and the eight report registers from bytes 1 to 15, and nothing else but the cleared error registers; otherwise it raises,
in the order tested: `LEN`, the empty buffer, the unregistered tag, the short body. -/
def Obligations.MdecDecodesTheFrame : Prop :=
  decode (.command 0x00000041) = .ok .mdec ∧
  ∀ s : State,
    (s.buf.read 0 = 0x32 → 16 ≤ s.len.toNat → s.len.toNat ≤ 32 →
      ∀ r : Report, r = reportAtBodyBits (BitVec.ofNat 120 (bufNumber s.buf 1 15)) →
        exec .mdec s = .next { s with
          kind := 0x32, track := r.track, latp := r.latitudePacked, lonp := r.longitudePacked, trkn := r.trackNumber
          altp := r.altitudePacked, par := r.parity, spd := r.speedMs, hdg := r.headingCdeg
          err := 0, einfo0 := 0, einfo1 := 0 }) ∧
    (32 < s.len.toNat → exec .mdec s = .next { s with err := 5, einfo0 := 3, einfo1 := s.len }) ∧
    (s.len.toNat = 0 → exec .mdec s = .next { s with err := 1, einfo0 := 8, einfo1 := 0 }) ∧
    (1 ≤ s.len.toNat → s.len.toNat ≤ 32 → s.buf.read 0 ≠ 0x32 →
      exec .mdec s = .next { s with err := 2, einfo0 := (s.buf.read 0).setWidth 32, einfo1 := 0 }) ∧
    (1 ≤ s.len.toNat → s.len.toNat ≤ 15 → s.buf.read 0 = 0x32 →
      exec .mdec s = .next { s with err := 1, einfo0 := 117, einfo1 := BitVec.ofNat 32 (8 * (s.len.toNat - 1)) })

/-- 43_envelope.md R216: the round trip of the envelope, with any bytes after the frame, and on the registers. -/
def Obligations.FrameRoundTrip : Prop :=
  (∀ r : Report, (envEncode adsRegistry (.airTrack r) airTrack_registered).length = 16 ∧
    ∀ x : List Byte, envDecode adsRegistry (envEncode adsRegistry (.airTrack r) airTrack_registered ++ x) =
      .ok (.airTrack r)) ∧
  (∀ s : State, s.kind = 0x32 → ∃ t u, exec .menc s = .next t ∧ exec .mdec t = .next u ∧ u.err = 0 ∧
    u.kind = s.kind ∧ reportRegs u = reportRegs s)

/-- 43_envelope.md R215, over every type of kinds: adding an entry with a new tag for a new kind leaves every other tag as
it was on decode and every registered kind as it was on encode, and the new tag and kind get the new codec. -/
def Obligations.NewKindsLeaveOldKindsAlone : Prop :=
  ∀ (Kind : Type) [DecidableEq Kind] (Payload : Kind → Type) (reg : Registry Payload) (e : KindEntry Payload),
    entryOfTag reg e.tag = none → codecOfKind reg e.kind = none →
    (∀ (tag : Byte) (body : List Byte), tag ≠ e.tag → envDecode (reg ++ [e]) (tag :: body) = envDecode reg (tag :: body)) ∧
    (∀ (m : MessageOf Payload) (h : Registered reg m.kind),
      ∃ h' : Registered (reg ++ [e]) m.kind, envEncode (reg ++ [e]) m h' = envEncode reg m h) ∧
    (∀ body : List Byte, envDecode (reg ++ [e]) (e.tag :: body) = (e.codec.decode body).map fun p => ⟨e.kind, p⟩) ∧
    (∀ p : Payload e.kind,
      ∃ h' : Registered (reg ++ [e]) e.kind, envEncode (reg ++ [e]) ⟨e.kind, p⟩ h' = e.tag :: e.codec.encode p)

/-- The model's reading of the wire-format row as an instruction (log 4): a frame puts its tag in `KIND` and its fields in
the report registers, and changes nothing else but the cleared error registers. -/
def Obligations.MsgAirtrackCompletes : Prop :=
  ∀ (r : Report) (s : State),
    exec (.msgAirtrack r) s = .next { s with
      kind := 0x32, track := r.track, latp := r.latitudePacked, lonp := r.longitudePacked, trkn := r.trackNumber
      altp := r.altitudePacked, par := r.parity, spd := r.speedMs, hdg := r.headingCdeg
      err := 0, einfo0 := 0, einfo1 := 0 }

/-- 70_reset_and_hazards.md R295: the body and envelope commands neither read nor write the field table: with any other
field table each does the same and leaves that table as it is. -/
def Obligations.BodyCommandsIgnoreTheFieldTable : Prop :=
  ∀ i ∈ [Instr.benc, Instr.bdec, Instr.menc, Instr.mdec], ∀ (s : State) (nf : Word) (v w : Vector Word 8),
    ∃ t, exec i s = .next t ∧ t.nf = s.nf ∧ t.v = s.v ∧ t.w = s.w ∧
      exec i { s with nf := nf, v := v, w := w } = .next { t with nf := nf, v := v, w := w }
end

