-- ==== Sys2Proof/Laws/BitStream.lean ====
section
/-!
SUPPORT. The laws of the bit stream: what one stream bit is after a bit is replaced, the step equations of `put_field` and
`get_field`, and the lengths and totals that proofs about `pack` and `unpack` count with.
-/

namespace Sys2Proof.Machine

/-- A bit of a byte in which one bit is replaced. -/
theorem getLsbD_byteWithBit (byte : Byte) {pos : Nat} (x : Bool) (h : pos < 8) (j : Nat) :
    (byteWithBit byte pos x).getLsbD j = if j = pos then x else byte.getLsbD j := by
  by_cases hj : j < 8
  · cases x
    · by_cases hp : j = pos
      · subst hp; simp [byteWithBit, hj]
      · simp [byteWithBit, hj, hp]
        omega
    · by_cases hp : j = pos
      · subst hp; simp [byteWithBit, hj]
      · simp [byteWithBit, hj, hp]
        omega
  · have hp : j ≠ pos := by omega
    simp [hp, BitVec.getLsbD_of_ge _ _ (show 8 ≤ j by omega)]

@[simp] theorem length_setStreamBit (b : List Byte) (k : Nat) (x : Bool) : (setStreamBit b k x).length = b.length := by
  simp [setStreamBit]

/-- A stream bit after one stream bit is replaced. -/
theorem streamBit_setStreamBit (b : List Byte) {k : Nat} (x : Bool) (hk : k < 8 * b.length) (j : Nat) :
    streamBit (setStreamBit b k x) j = if j = k then x else streamBit b j := by
  have hlen : k / 8 < b.length := by omega
  simp only [streamBit, setStreamBit, List.getD_eq_getElem?_getD]
  by_cases hbyte : k / 8 = j / 8
  · have hlen' : j / 8 < b.length := by omega
    rw [hbyte, List.getElem?_modify_eq, List.getElem?_eq_getElem hlen']
    simp only [Option.map_eq_map, Option.map_some, Option.getD_some]
    rw [getLsbD_byteWithBit _ _ (by omega)]
    by_cases hj : j = k
    · subst hj; simp
    · rw [if_neg (by omega), if_neg hj]
  · have hj : j ≠ k := fun h => hbyte (by rw [h])
    rw [List.getElem?_modify_ne _ _ hbyte, if_neg hj]

/-- Stream bits of a prefix are those of the prefix alone. -/
theorem streamBit_append_left (b x : List Byte) {k : Nat} (h : k < 8 * b.length) :
    streamBit (b ++ x) k = streamBit b k := by
  simp [streamBit, List.getElem?_append_left (show k / 8 < b.length by omega)]

/-- Past its end a byte sequence has only zero stream bits. -/
theorem streamBit_past (b : List Byte) {k : Nat} (h : 8 * b.length ≤ k) : streamBit b k = false := by
  simp [streamBit, List.getElem?_eq_none (show b.length ≤ k / 8 by omega)]

@[simp] theorem streamBit_zeros (n k : Nat) : streamBit (List.replicate n 0#8) k = false := by
  by_cases h : k / 8 < n <;> simp [streamBit, h]

/-- Two byte sequences of one length with the same stream bits are equal. -/
theorem bytes_ext {a b : List Byte} (hl : a.length = b.length) (h : ∀ k, streamBit a k = streamBit b k) : a = b := by
  apply List.ext_getElem hl
  intro i h1 h2
  apply BitVec.eq_of_getLsbD_eq
  intro j hj
  have := h (8 * i + (7 - j))
  have e1 : (8 * i + (7 - j)) / 8 = i := by omega
  have e2 : 7 - (8 * i + (7 - j)) % 8 = j := by omega
  simp only [streamBit, e1, e2, List.getD_eq_getElem?_getD, List.getElem?_eq_getElem h1,
    List.getElem?_eq_getElem h2, Option.getD_some] at this
  simpa using this

/-! The step equations. -/

@[simp] theorem getField_zero (b : List Byte) (c : Nat) : getField b c 0 = 0 := rfl

theorem getField_succ (b : List Byte) (c w : Nat) :
    getField b c (w + 1) = 2 * getField b c w + (streamBit b (c + w)).toNat := by
  simp [getField, List.range_succ]

@[simp] theorem putField_zero (b : List Byte) (c v : Nat) : putField b c v 0 = b := rfl

/-- `put_field` one bit wider writes the more significant bits first and then the last one. -/
theorem putField_succ (b : List Byte) (c v w : Nat) :
    putField b c v (w + 1) = setStreamBit (putField b c (v / 2) w) (c + w) (v.testBit 0) := by
  have h : ∀ (l : List Nat) (b : List Byte), (∀ t ∈ l, t < w) →
      l.foldl (fun b t => setStreamBit b (c + t) (v.testBit (w - t))) b =
        l.foldl (fun b t => setStreamBit b (c + t) ((v / 2).testBit (w - 1 - t))) b := by
    intro l
    induction l with
    | nil => intro b _; rfl
    | cons t l ih =>
      intro b ht
      have h1 : t < w := ht t List.mem_cons_self
      have e : v.testBit (w - t) = (v / 2).testBit (w - 1 - t) := by
        rw [← Nat.testBit_succ]; congr 1; omega
      simp only [List.foldl_cons, e]
      exact ih _ fun x hx => ht x (List.mem_cons_of_mem _ hx)
  simp only [putField, List.range_succ, List.foldl_append, List.foldl_cons, List.foldl_nil, Nat.add_sub_cancel,
    Nat.sub_self]
  rw [h _ _ fun t ht => List.mem_range.mp ht]

@[simp] theorem length_putField (b : List Byte) (c v w : Nat) : (putField b c v w).length = b.length := by
  induction w generalizing v with
  | zero => rfl
  | succ w ih => rw [putField_succ, length_setStreamBit, ih]

@[simp] theorem length_packFrom (fs : List BitField) (b : List Byte) (cur : Nat) :
    (packFrom fs b cur).length = b.length := by
  induction fs generalizing b cur with
  | nil => rfl
  | cons f fs ih => simp [packFrom, ih]

@[simp] theorem length_unpackFrom (b : List Byte) (ws : List Width) (cur : Nat) :
    (unpackFrom b ws cur).length = ws.length := by
  induction ws generalizing cur with
  | nil => rfl
  | cons w ws ih => simp [unpackFrom, ih]

@[simp] theorem totalBits_nil : totalBits [] = 0 := rfl

@[simp] theorem totalBits_cons (w : Width) (ws : List Width) : totalBits (w :: ws) = w.bits + totalBits ws := rfl

theorem totalBits_append (ws vs : List Width) : totalBits (ws ++ vs) = totalBits ws + totalBits vs := by
  induction ws with
  | nil => simp
  | cons w ws ih => simp [ih, Nat.add_assoc]

/-- `T` bits fit into ceil(T / 8) bytes with less than a byte to spare. -/
theorem bytesFor_spec (n : Nat) : n ≤ 8 * bytesFor n ∧ 8 * bytesFor n < n + 8 := by
  unfold bytesFor; omega

/-! The layout of the air-track body, as totals. -/

theorem fieldWidth_bits (n : FieldName) : (fieldWidth n).bits = n.width := by cases n <;> rfl

@[simp] theorem reportField_width (r : Report) (n : FieldName) : (reportField r n).width = fieldWidth n := by
  cases n <;> rfl

/-- `BODY_BITS` is the sum of the layout's widths. -/
theorem totalBits_airTrackLayout : totalBits (airTrackLayout.map fieldWidth) = Config.bodyBits := rfl

end Sys2Proof.Machine
end

