-- ==== Sys2Proof/Laws/Envelope.lean ====
section
/-!
SUPPORT. What the envelope does, once: the look-ups in a registry, `env_encode` over the entry found, and both functions on
this hardware's registry.
-/

namespace Sys2Proof.Machine

section Registry

variable {Kind : Type} {Payload : Kind → Type}

/-- Looking a tag up in a longer registry: the entry that was there, or else the new one if the tag is its. -/
theorem entryOfTag_append (reg : Registry Payload) (e : KindEntry Payload) (tag : Byte) :
    entryOfTag (reg ++ [e]) tag = (entryOfTag reg tag).or (if e.tag = tag then some e else none) := by
  induction reg with
  | nil => simp [entryOfTag]
  | cons a reg ih => simp only [List.cons_append, entryOfTag]; split <;> simp [ih]

/-- `env_decode` under a tag that has no entry. -/
theorem envDecode_of_none {reg : Registry Payload} {tag : Byte} (h : entryOfTag reg tag = none) (body : List Byte) :
    envDecode reg (tag :: body) = .error (.unsupportedKind tag) := by
  simp [envDecode, h]

/-- `env_decode` under a tag that has an entry: that entry's codec on the rest, its kind on the result. -/
theorem envDecode_of_some {reg : Registry Payload} {tag : Byte} {e : KindEntry Payload} (h : entryOfTag reg tag = some e)
    (body : List Byte) : envDecode reg (tag :: body) = (e.codec.decode body).map fun p => ⟨e.kind, p⟩ := by
  simp only [envDecode, h]
  cases e.codec.decode body <;> rfl

variable [DecidableEq Kind]

/-- Looking a kind up in a longer registry: the codec that was there, or else the new one if the kind is its. -/
theorem codecOfKind_append (reg : Registry Payload) (e : KindEntry Payload) (kind : Kind) :
    codecOfKind (reg ++ [e]) kind = (codecOfKind reg kind).or (codecOfKind [e] kind) := by
  induction reg with
  | nil => simp [codecOfKind]
  | cons a reg ih => simp only [List.cons_append, codecOfKind]; split <;> simp [ih, codecOfKind]

@[simp] theorem codecOfKind_singleton (e : KindEntry Payload) : codecOfKind [e] e.kind = some (e.tag, e.codec) := by
  simp [codecOfKind]

/-- `env_encode` over the tag and the codec found for the message's kind. -/
theorem envEncode_eq {reg : Registry Payload} {m : MessageOf Payload} (h : Registered reg m.kind)
    {c : Byte × Codec (Payload m.kind)} (hc : codecOfKind reg m.kind = some c) :
    envEncode reg m h = c.1 :: c.2.encode m.payload := by
  simp [envEncode, hc]

end Registry

@[simp] theorem envEncode_adsRegistry (r : Report) (h : Registered adsRegistry .airTrack) :
    envEncode adsRegistry (.airTrack r) h = 0x32 :: bodyEncode airTrackLayout r := rfl

theorem entryOfTag_adsRegistry (tag : Byte) :
    entryOfTag adsRegistry tag = if 0x32 = tag then some (airTrackEntry airTrackLayout) else none := rfl

end Sys2Proof.Machine
end

