-- ==== Sys2Proof/Laws/HostPort.lean ====
section
/-!
SUPPORT. The register map as a two-way map between offsets and registers.
-/

namespace Sys2Proof.Machine

theorem mem_hostRegs (r : HostReg) : r ∈ hostRegs := by
  cases r <;> simp [hostRegs]

/-- No two registers share an offset (10_state.md R32). -/
theorem hostOffset_injective {r q : HostReg} (h : hostOffset r = hostOffset q) : r = q := by
  cases r <;> cases q <;> simp only [hostOffset] at h <;> first | rfl | (congr 1; apply Fin.ext; omega) | omega

/-- The register at an offset is the one whose offset it is. -/
theorem hostRegAt_eq_some {offset : Nat} {r : HostReg} : hostRegAt offset = some r ↔ hostOffset r = offset := by
  constructor
  · intro h
    have := List.find?_some h
    simpa using this
  · intro h
    cases hf : hostRegAt offset with
    | none =>
      have := List.find?_eq_none.mp hf r (mem_hostRegs r)
      simp [h] at this
    | some q =>
      have hq := List.find?_some hf
      simp only [beq_iff_eq] at hq
      exact congrArg some (hostOffset_injective (hq.trans h.symm))

@[simp] theorem hostRegAt_hostOffset (r : HostReg) : hostRegAt (hostOffset r) = some r :=
  hostRegAt_eq_some.mpr rfl

end Sys2Proof.Machine
end

