-- ==== Sys2Proof/Laws/Memory.lean ====
section
/-!
SUPPORT. The laws of the buffer: a read after a write, a read of a rewritten buffer, and that every operation keeps the
canonical form.
-/

namespace Sys2Proof.Machine

@[simp] theorem Memory.read_nil (addr : Nat) : Memory.read [] addr = 0 := rfl

theorem Memory.read_erase_same (m : Memory) (addr : Nat) : (Memory.erase m addr).read addr = 0 := by
  induction m with
  | nil => rfl
  | cons c m ih =>
    obtain ⟨a, b⟩ := c
    by_cases h : a = addr <;> simp [Memory.erase, Memory.read, h, ih]

theorem Memory.read_erase_other (m : Memory) {addr x : Nat} (h : x ≠ addr) :
    (Memory.erase m addr).read x = m.read x := by
  induction m with
  | nil => rfl
  | cons c m ih =>
    obtain ⟨a, b⟩ := c
    by_cases ha : a = addr
    · have hax : a ≠ x := by omega
      simp [Memory.erase, Memory.read, ha, ih]
      omega
    · simp [Memory.erase, Memory.read, ha, ih]

theorem Memory.read_insert_other (m : Memory) {addr x : Nat} (b : Byte) (h : x ≠ addr) :
    (Memory.insert m addr b).read x = m.read x := by
  induction m with
  | nil => simp [Memory.insert, Memory.read, unlistedByte]; omega
  | cons c m ih =>
    obtain ⟨a, y⟩ := c
    by_cases ha : addr < a
    · simp [Memory.insert, Memory.read, ha]; omega
    · simp [Memory.insert, Memory.read, ha, ih]

theorem Memory.read_insert_erased (m : Memory) (addr : Nat) (b : Byte) :
    (Memory.insert (Memory.erase m addr) addr b).read addr = b := by
  induction m with
  | nil => simp [Memory.erase, Memory.insert, Memory.read]
  | cons c m ih =>
    obtain ⟨a, y⟩ := c
    by_cases ha : a = addr
    · simpa [Memory.erase, ha] using ih
    · by_cases hl : addr < a
      · simp [Memory.erase, Memory.insert, Memory.read, ha, hl]
      · simp [Memory.erase, Memory.insert, Memory.read, ha, hl, ih]

/-- A read after a write to the same byte gives the value written, in every buffer. -/
@[simp] theorem Memory.read_write_same (m : Memory) (addr : Fin Config.bufBytes) (x : Byte) :
    (m.write addr x).read addr.val = x := by
  by_cases h : x = unlistedByte
  · simp only [Memory.write, h, if_true]
    exact Memory.read_erase_same m addr.val
  · simp [Memory.write, h, Memory.read_insert_erased]

/-- A write leaves every other byte alone. -/
theorem Memory.read_write_other (m : Memory) (addr : Fin Config.bufBytes) (x : Byte) {a : Nat} (h : a ≠ addr.val) :
    (m.write addr x).read a = m.read a := by
  by_cases hx : x = unlistedByte
  · simp [Memory.write, hx, Memory.read_erase_other m h]
  · simp [Memory.write, hx, Memory.read_insert_other _ x h, Memory.read_erase_other m h]

theorem Memory.read_cellsFrom (n addr : Nat) (bytes : List Byte) (a : Nat) :
    (Memory.cellsFrom n addr bytes).read a = if addr ≤ a ∧ a < addr + n then bytes.getD (a - addr) 0 else 0 := by
  induction n generalizing addr bytes with
  | zero => simp [Memory.cellsFrom]
  | succ n ih =>
    cases bytes with
    | nil => simp [Memory.cellsFrom]
    | cons x xs =>
      have hn : addr + 1 + n = addr + (n + 1) := by omega
      rcases Nat.lt_trichotomy a addr with h | h | h
      · have h1 : ¬ (addr ≤ a) := by omega
        have h2 : ¬ (addr + 1 ≤ a) := by omega
        have h3 : addr ≠ a := by omega
        by_cases hx : x = unlistedByte <;> simp [Memory.cellsFrom, hx, Memory.read, ih, h1, h2, h3]
      · subst h
        have h2 : ¬ (a + 1 ≤ a) := by omega
        by_cases hx : x = unlistedByte
        · simp [Memory.cellsFrom, hx, ih, h2, unlistedByte]
        · simp [Memory.cellsFrom, hx, Memory.read]
      · have h1 : addr ≤ a := by omega
        have h2 : addr + 1 ≤ a := by omega
        have h3 : addr ≠ a := by omega
        have h4 : (x :: xs).getD (a - addr) 0 = xs.getD (a - (addr + 1)) 0 := by
          obtain ⟨k, rfl⟩ : ∃ k, a = addr + 1 + k := ⟨a - (addr + 1), by omega⟩
          have e1 : addr + 1 + k - addr = k + 1 := by omega
          have e2 : addr + 1 + k - (addr + 1) = k := by omega
          rw [e1, e2]; rfl
        by_cases hx : x = unlistedByte
        · rw [h4]; simp only [Memory.cellsFrom, hx, if_true, ih, hn, h1, h2, true_and]
        · rw [h4]; simp only [Memory.cellsFrom, hx, if_false, Memory.read, ih, hn, h1, h2, h3, true_and]

/-- A byte of the rewritten buffer: the byte given, or 0 past the last one. -/
theorem Memory.read_ofBytes (bytes : List Byte) (a : Nat) :
    (Memory.ofBytes bytes).read a = if a < 32 then bytes.getD a 0 else 0 := by
  simp [Memory.ofBytes, Memory.read_cellsFrom, Config.bufBytes]

/-! The canonical form. -/

theorem Memory.risesFrom_weaken {m : Memory} {low low' : Nat} (h : low' ≤ low) (hm : Memory.risesFrom low m = true) :
    Memory.risesFrom low' m = true := by
  cases m with
  | nil => rfl
  | cons c m =>
    simp only [Memory.risesFrom, Bool.and_eq_true, decide_eq_true_eq] at hm ⊢
    exact ⟨by omega, hm.2⟩

theorem Memory.risesFrom_erase {m : Memory} {low : Nat} (addr : Nat) (hm : Memory.risesFrom low m = true) :
    Memory.risesFrom low (Memory.erase m addr) = true := by
  induction m generalizing low with
  | nil => rfl
  | cons c m ih =>
    obtain ⟨a, b⟩ := c
    simp only [Memory.risesFrom, Bool.and_eq_true, decide_eq_true_eq] at hm
    by_cases h : a = addr
    · simp only [Memory.erase, h, if_true]
      exact Memory.risesFrom_weaken (by omega) (ih hm.2)
    · simp only [Memory.erase, h, if_false, Memory.risesFrom, Bool.and_eq_true, decide_eq_true_eq]
      exact ⟨hm.1, ih hm.2⟩

theorem Memory.erase_no_addr (m : Memory) (addr : Nat) : ∀ c ∈ Memory.erase m addr, c.1 ≠ addr := by
  induction m with
  | nil => simp [Memory.erase]
  | cons c m ih =>
    obtain ⟨a, b⟩ := c
    by_cases h : a = addr
    · simpa [Memory.erase, h] using ih
    · intro c hc
      simp only [Memory.erase, h, if_false, List.mem_cons] at hc
      rcases hc with rfl | hc
      · exact h
      · exact ih c hc

theorem Memory.mem_of_mem_erase {m : Memory} {addr : Nat} {c : Host.Cell} (h : c ∈ Memory.erase m addr) : c ∈ m := by
  induction m with
  | nil => simp [Memory.erase] at h
  | cons d m ih =>
    obtain ⟨a, b⟩ := d
    by_cases ha : a = addr
    · simp only [Memory.erase, ha, if_true] at h
      exact List.mem_cons_of_mem _ (ih h)
    · simp only [Memory.erase, ha, if_false, List.mem_cons] at h
      rcases h with rfl | h
      · exact List.mem_cons_self
      · exact List.mem_cons_of_mem _ (ih h)

theorem Memory.risesFrom_insert {m : Memory} {low addr : Nat} (x : Byte) (hm : Memory.risesFrom low m = true)
    (hl : low ≤ addr) (hno : ∀ c ∈ m, c.1 ≠ addr) : Memory.risesFrom low (Memory.insert m addr x) = true := by
  induction m generalizing low with
  | nil => simp [Memory.insert, Memory.risesFrom, hl]
  | cons c m ih =>
    obtain ⟨a, b⟩ := c
    simp only [Memory.risesFrom, Bool.and_eq_true, decide_eq_true_eq] at hm
    have hne : a ≠ addr := hno (a, b) List.mem_cons_self
    by_cases h : addr < a
    · simp only [Memory.insert, h, if_true, Memory.risesFrom, Bool.and_eq_true, decide_eq_true_eq]
      exact ⟨hl, by omega, hm.2⟩
    · simp only [Memory.insert, h, if_false, Memory.risesFrom, Bool.and_eq_true, decide_eq_true_eq]
      exact ⟨hm.1, ih hm.2 (by omega) fun c hc => hno c (List.mem_cons_of_mem _ hc)⟩

theorem Memory.mem_insert {m : Memory} {addr : Nat} {x : Byte} {c : Host.Cell} (h : c ∈ Memory.insert m addr x) :
    c = (addr, x) ∨ c ∈ m := by
  induction m with
  | nil => simpa [Memory.insert] using h
  | cons d m ih =>
    obtain ⟨a, b⟩ := d
    by_cases ha : addr < a
    · simpa [Memory.insert, ha] using h
    · simp only [Memory.insert, ha, if_false, List.mem_cons] at h
      rcases h with rfl | h
      · exact .inr List.mem_cons_self
      · rcases ih h with rfl | h
        · exact .inl rfl
        · exact .inr (List.mem_cons_of_mem _ h)

/-- What the canonical form says. -/
theorem Memory.wf_iff (m : Memory) :
    m.wf = true ↔ Memory.risesFrom 0 m = true ∧ ∀ c ∈ m, c.1 < Config.bufBytes ∧ c.2 ≠ unlistedByte := by
  simp [Memory.wf]

/-- Writing a byte keeps the canonical form. -/
theorem Memory.wf_write {m : Memory} (h : m.wf = true) (addr : Fin Config.bufBytes) (x : Byte) :
    (m.write addr x).wf = true := by
  rw [Memory.wf_iff] at h ⊢
  by_cases hx : x = unlistedByte
  · simp only [Memory.write, hx, if_true]
    exact ⟨Memory.risesFrom_erase _ h.1, fun c hc => h.2 c (Memory.mem_of_mem_erase hc)⟩
  · simp only [Memory.write, hx, if_false]
    refine ⟨Memory.risesFrom_insert x (Memory.risesFrom_erase _ h.1) (Nat.zero_le _) (Memory.erase_no_addr m _), ?_⟩
    intro c hc
    rcases Memory.mem_insert hc with rfl | hc
    · exact ⟨addr.isLt, hx⟩
    · exact h.2 c (Memory.mem_of_mem_erase hc)

theorem Memory.cellsFrom_form (n addr : Nat) (bytes : List Byte) :
    Memory.risesFrom addr (Memory.cellsFrom n addr bytes) = true ∧
      ∀ c ∈ Memory.cellsFrom n addr bytes, c.1 < addr + n ∧ c.2 ≠ unlistedByte := by
  induction n generalizing addr bytes with
  | zero => simp [Memory.cellsFrom, Memory.risesFrom]
  | succ n ih =>
    cases bytes with
    | nil => simp [Memory.cellsFrom, Memory.risesFrom]
    | cons x xs =>
      obtain ⟨hr, hm⟩ := ih (addr + 1) xs
      have hm' : ∀ c ∈ Memory.cellsFrom n (addr + 1) xs, c.1 < addr + (n + 1) ∧ c.2 ≠ unlistedByte := fun c hc =>
        ⟨by have := (hm c hc).1; omega, (hm c hc).2⟩
      by_cases hx : x = unlistedByte
      · simp only [Memory.cellsFrom, hx, if_true]
        exact ⟨Memory.risesFrom_weaken (by omega) hr, hm'⟩
      · simp only [Memory.cellsFrom, hx, if_false, Memory.risesFrom, Bool.and_eq_true, decide_eq_true_eq,
          List.mem_cons]
        refine ⟨⟨le_refl _, hr⟩, ?_⟩
        rintro c (rfl | hc)
        · exact ⟨by simp, hx⟩
        · exact hm' c hc

/-- Rewriting the whole buffer gives the canonical form. -/
theorem Memory.wf_ofBytes (bytes : List Byte) : (Memory.ofBytes bytes).wf = true := by
  have h := Memory.cellsFrom_form Config.bufBytes 0 bytes
  rw [Memory.wf_iff]
  exact ⟨h.1, fun c hc => ⟨by simpa using (h.2 c hc).1, (h.2 c hc).2⟩⟩

/-- The buffer at reset has the canonical form. -/
theorem Memory.wf_reset : State.reset.buf.wf = true := rfl

/-- Below its first address a rising list reads as unlisted. -/
theorem Memory.read_below {m : Memory} {low a : Nat} (hm : Memory.risesFrom low m = true) (h : a < low) :
    m.read a = 0 := by
  induction m generalizing low with
  | nil => rfl
  | cons c m ih =>
    obtain ⟨x, b⟩ := c
    simp only [Memory.risesFrom, Bool.and_eq_true, decide_eq_true_eq] at hm
    have hne : x ≠ a := by omega
    simp only [Memory.read, hne, if_false]
    exact ih hm.2 (by omega)

theorem Memory.ext_from {m m' : Memory} {low : Nat} (hr : Memory.risesFrom low m = true)
    (hr' : Memory.risesFrom low m' = true) (hn : ∀ c ∈ m, c.2 ≠ unlistedByte) (hn' : ∀ c ∈ m', c.2 ≠ unlistedByte)
    (h : ∀ a, m.read a = m'.read a) : m = m' := by
  induction m generalizing m' low with
  | nil =>
    cases m' with
    | nil => rfl
    | cons c m' =>
      obtain ⟨x, b⟩ := c
      have hx := h x
      simp only [Memory.read, if_true] at hx
      exact absurd hx.symm (hn' (x, b) List.mem_cons_self)
  | cons c m ih =>
    obtain ⟨x, b⟩ := c
    simp only [Memory.risesFrom, Bool.and_eq_true, decide_eq_true_eq] at hr
    cases m' with
    | nil =>
      have hx := h x
      simp only [Memory.read, if_true] at hx
      exact absurd hx (hn (x, b) List.mem_cons_self)
    | cons c' m' =>
      obtain ⟨y, b'⟩ := c'
      simp only [Memory.risesFrom, Bool.and_eq_true, decide_eq_true_eq] at hr'
      have hb : b ≠ unlistedByte := hn (x, b) List.mem_cons_self
      have hb' : b' ≠ unlistedByte := hn' (y, b') List.mem_cons_self
      rcases Nat.lt_trichotomy x y with hxy | rfl | hxy
      · have hx := h x
        have hne : y ≠ x := by omega
        simp only [Memory.read, if_true, hne, if_false] at hx
        rw [Memory.read_below hr'.2 (by omega)] at hx
        exact absurd hx hb
      · have hx := h x
        simp only [Memory.read, if_true] at hx
        subst hx
        have hm : m = m' := by
          refine ih hr.2 hr'.2 (fun c hc => hn c (List.mem_cons_of_mem _ hc))
            (fun c hc => hn' c (List.mem_cons_of_mem _ hc)) fun a => ?_
          by_cases ha : x = a
          · subst ha
            rw [Memory.read_below hr.2 (by omega), Memory.read_below hr'.2 (by omega)]
          · have ha' := h a
            simpa only [Memory.read, ha, if_false] using ha'
        rw [hm]
      · have hy := h y
        have hne : x ≠ y := by omega
        simp only [Memory.read, if_true, hne, if_false] at hy
        rw [Memory.read_below hr.2 (by omega)] at hy
        exact absurd hy.symm hb'

/-- Two buffers in canonical form that read the same are the same list. -/
theorem Memory.ext_read {m m' : Memory} (hm : m.wf = true) (hm' : m'.wf = true) (h : ∀ a, m.read a = m'.read a) :
    m = m' := by
  rw [Memory.wf_iff] at hm hm'
  exact Memory.ext_from hm.1 hm'.1 (fun c hc => (hm.2 c hc).2) (fun c hc => (hm'.2 c hc).2) h

end Sys2Proof.Machine
end

