-- ==== Sys2Proof/Laws/State.lean ====
section
/-!
SUPPORT. What each named update of the state does to each of its fields: one lemma per field per update, so that no later
proof unfolds an update.
-/

namespace Sys2Proof.Machine

/-! `State.setOutcome`: writes `STATUS`, `EINFO0` and `EINFO1`. -/

@[simp] theorem State.setOutcome_err (s : State) (code : Byte) (a b : Word) : (s.setOutcome code a b).err = code := rfl
@[simp] theorem State.setOutcome_einfo0 (s : State) (code : Byte) (a b : Word) : (s.setOutcome code a b).einfo0 = a := rfl
@[simp] theorem State.setOutcome_einfo1 (s : State) (code : Byte) (a b : Word) : (s.setOutcome code a b).einfo1 = b := rfl
@[simp] theorem State.setOutcome_nf (s : State) (code : Byte) (a b : Word) : (s.setOutcome code a b).nf = s.nf := rfl
@[simp] theorem State.setOutcome_len (s : State) (code : Byte) (a b : Word) : (s.setOutcome code a b).len = s.len := rfl
@[simp] theorem State.setOutcome_kind (s : State) (code : Byte) (a b : Word) : (s.setOutcome code a b).kind = s.kind := rfl
@[simp] theorem State.setOutcome_v (s : State) (code : Byte) (a b : Word) : (s.setOutcome code a b).v = s.v := rfl
@[simp] theorem State.setOutcome_w (s : State) (code : Byte) (a b : Word) : (s.setOutcome code a b).w = s.w := rfl
@[simp] theorem State.setOutcome_gtrack (s : State) (code : Byte) (a b : Word) : (s.setOutcome code a b).gtrack = s.gtrack := rfl
@[simp] theorem State.setOutcome_glat (s : State) (code : Byte) (a b : Word) : (s.setOutcome code a b).glat = s.glat := rfl
@[simp] theorem State.setOutcome_glon (s : State) (code : Byte) (a b : Word) : (s.setOutcome code a b).glon = s.glon := rfl
@[simp] theorem State.setOutcome_galt (s : State) (code : Byte) (a b : Word) : (s.setOutcome code a b).galt = s.galt := rfl
@[simp] theorem State.setOutcome_gspd (s : State) (code : Byte) (a b : Word) : (s.setOutcome code a b).gspd = s.gspd := rfl
@[simp] theorem State.setOutcome_ghdg (s : State) (code : Byte) (a b : Word) : (s.setOutcome code a b).ghdg = s.ghdg := rfl
@[simp] theorem State.setOutcome_track (s : State) (code : Byte) (a b : Word) : (s.setOutcome code a b).track = s.track := rfl
@[simp] theorem State.setOutcome_latp (s : State) (code : Byte) (a b : Word) : (s.setOutcome code a b).latp = s.latp := rfl
@[simp] theorem State.setOutcome_lonp (s : State) (code : Byte) (a b : Word) : (s.setOutcome code a b).lonp = s.lonp := rfl
@[simp] theorem State.setOutcome_trkn (s : State) (code : Byte) (a b : Word) : (s.setOutcome code a b).trkn = s.trkn := rfl
@[simp] theorem State.setOutcome_altp (s : State) (code : Byte) (a b : Word) : (s.setOutcome code a b).altp = s.altp := rfl
@[simp] theorem State.setOutcome_par (s : State) (code : Byte) (a b : Word) : (s.setOutcome code a b).par = s.par := rfl
@[simp] theorem State.setOutcome_spd (s : State) (code : Byte) (a b : Word) : (s.setOutcome code a b).spd = s.spd := rfl
@[simp] theorem State.setOutcome_hdg (s : State) (code : Byte) (a b : Word) : (s.setOutcome code a b).hdg = s.hdg := rfl
@[simp] theorem State.setOutcome_buf (s : State) (code : Byte) (a b : Word) : (s.setOutcome code a b).buf = s.buf := rfl
@[simp] theorem State.setOutcome_pending (s : State) (code : Byte) (a b : Word) : (s.setOutcome code a b).pending = s.pending := rfl
@[simp] theorem State.setOutcome_returned (s : State) (code : Byte) (a b : Word) : (s.setOutcome code a b).returned = s.returned := rfl

/-! `State.complete`: clears `STATUS`, `EINFO0` and `EINFO1`. -/

@[simp] theorem State.complete_err (s : State) : (s.complete).err = 0 := rfl
@[simp] theorem State.complete_einfo0 (s : State) : (s.complete).einfo0 = 0 := rfl
@[simp] theorem State.complete_einfo1 (s : State) : (s.complete).einfo1 = 0 := rfl
@[simp] theorem State.complete_nf (s : State) : (s.complete).nf = s.nf := rfl
@[simp] theorem State.complete_len (s : State) : (s.complete).len = s.len := rfl
@[simp] theorem State.complete_kind (s : State) : (s.complete).kind = s.kind := rfl
@[simp] theorem State.complete_v (s : State) : (s.complete).v = s.v := rfl
@[simp] theorem State.complete_w (s : State) : (s.complete).w = s.w := rfl
@[simp] theorem State.complete_gtrack (s : State) : (s.complete).gtrack = s.gtrack := rfl
@[simp] theorem State.complete_glat (s : State) : (s.complete).glat = s.glat := rfl
@[simp] theorem State.complete_glon (s : State) : (s.complete).glon = s.glon := rfl
@[simp] theorem State.complete_galt (s : State) : (s.complete).galt = s.galt := rfl
@[simp] theorem State.complete_gspd (s : State) : (s.complete).gspd = s.gspd := rfl
@[simp] theorem State.complete_ghdg (s : State) : (s.complete).ghdg = s.ghdg := rfl
@[simp] theorem State.complete_track (s : State) : (s.complete).track = s.track := rfl
@[simp] theorem State.complete_latp (s : State) : (s.complete).latp = s.latp := rfl
@[simp] theorem State.complete_lonp (s : State) : (s.complete).lonp = s.lonp := rfl
@[simp] theorem State.complete_trkn (s : State) : (s.complete).trkn = s.trkn := rfl
@[simp] theorem State.complete_altp (s : State) : (s.complete).altp = s.altp := rfl
@[simp] theorem State.complete_par (s : State) : (s.complete).par = s.par := rfl
@[simp] theorem State.complete_spd (s : State) : (s.complete).spd = s.spd := rfl
@[simp] theorem State.complete_hdg (s : State) : (s.complete).hdg = s.hdg := rfl
@[simp] theorem State.complete_buf (s : State) : (s.complete).buf = s.buf := rfl
@[simp] theorem State.complete_pending (s : State) : (s.complete).pending = s.pending := rfl
@[simp] theorem State.complete_returned (s : State) : (s.complete).returned = s.returned := rfl

/-! `State.raise`: records an error. -/

@[simp] theorem State.raise_err (s : State) (e : CmdError) : (s.raise e).err = errorCode e := rfl
@[simp] theorem State.raise_einfo0 (s : State) (e : CmdError) : (s.raise e).einfo0 = errorInfo0 e := rfl
@[simp] theorem State.raise_einfo1 (s : State) (e : CmdError) : (s.raise e).einfo1 = errorInfo1 e := rfl
@[simp] theorem State.raise_nf (s : State) (e : CmdError) : (s.raise e).nf = s.nf := rfl
@[simp] theorem State.raise_len (s : State) (e : CmdError) : (s.raise e).len = s.len := rfl
@[simp] theorem State.raise_kind (s : State) (e : CmdError) : (s.raise e).kind = s.kind := rfl
@[simp] theorem State.raise_v (s : State) (e : CmdError) : (s.raise e).v = s.v := rfl
@[simp] theorem State.raise_w (s : State) (e : CmdError) : (s.raise e).w = s.w := rfl
@[simp] theorem State.raise_gtrack (s : State) (e : CmdError) : (s.raise e).gtrack = s.gtrack := rfl
@[simp] theorem State.raise_glat (s : State) (e : CmdError) : (s.raise e).glat = s.glat := rfl
@[simp] theorem State.raise_glon (s : State) (e : CmdError) : (s.raise e).glon = s.glon := rfl
@[simp] theorem State.raise_galt (s : State) (e : CmdError) : (s.raise e).galt = s.galt := rfl
@[simp] theorem State.raise_gspd (s : State) (e : CmdError) : (s.raise e).gspd = s.gspd := rfl
@[simp] theorem State.raise_ghdg (s : State) (e : CmdError) : (s.raise e).ghdg = s.ghdg := rfl
@[simp] theorem State.raise_track (s : State) (e : CmdError) : (s.raise e).track = s.track := rfl
@[simp] theorem State.raise_latp (s : State) (e : CmdError) : (s.raise e).latp = s.latp := rfl
@[simp] theorem State.raise_lonp (s : State) (e : CmdError) : (s.raise e).lonp = s.lonp := rfl
@[simp] theorem State.raise_trkn (s : State) (e : CmdError) : (s.raise e).trkn = s.trkn := rfl
@[simp] theorem State.raise_altp (s : State) (e : CmdError) : (s.raise e).altp = s.altp := rfl
@[simp] theorem State.raise_par (s : State) (e : CmdError) : (s.raise e).par = s.par := rfl
@[simp] theorem State.raise_spd (s : State) (e : CmdError) : (s.raise e).spd = s.spd := rfl
@[simp] theorem State.raise_hdg (s : State) (e : CmdError) : (s.raise e).hdg = s.hdg := rfl
@[simp] theorem State.raise_buf (s : State) (e : CmdError) : (s.raise e).buf = s.buf := rfl
@[simp] theorem State.raise_pending (s : State) (e : CmdError) : (s.raise e).pending = s.pending := rfl
@[simp] theorem State.raise_returned (s : State) (e : CmdError) : (s.raise e).returned = s.returned := rfl

/-! `State.setEncoded`: writes `BUF` and `LEN`. -/

@[simp] theorem State.setEncoded_err (s : State) (bytes : List Byte) : (s.setEncoded bytes).err = s.err := rfl
@[simp] theorem State.setEncoded_einfo0 (s : State) (bytes : List Byte) : (s.setEncoded bytes).einfo0 = s.einfo0 := rfl
@[simp] theorem State.setEncoded_einfo1 (s : State) (bytes : List Byte) : (s.setEncoded bytes).einfo1 = s.einfo1 := rfl
@[simp] theorem State.setEncoded_nf (s : State) (bytes : List Byte) : (s.setEncoded bytes).nf = s.nf := rfl
@[simp] theorem State.setEncoded_len (s : State) (bytes : List Byte) : (s.setEncoded bytes).len = BitVec.ofNat 32 bytes.length := rfl
@[simp] theorem State.setEncoded_kind (s : State) (bytes : List Byte) : (s.setEncoded bytes).kind = s.kind := rfl
@[simp] theorem State.setEncoded_v (s : State) (bytes : List Byte) : (s.setEncoded bytes).v = s.v := rfl
@[simp] theorem State.setEncoded_w (s : State) (bytes : List Byte) : (s.setEncoded bytes).w = s.w := rfl
@[simp] theorem State.setEncoded_gtrack (s : State) (bytes : List Byte) : (s.setEncoded bytes).gtrack = s.gtrack := rfl
@[simp] theorem State.setEncoded_glat (s : State) (bytes : List Byte) : (s.setEncoded bytes).glat = s.glat := rfl
@[simp] theorem State.setEncoded_glon (s : State) (bytes : List Byte) : (s.setEncoded bytes).glon = s.glon := rfl
@[simp] theorem State.setEncoded_galt (s : State) (bytes : List Byte) : (s.setEncoded bytes).galt = s.galt := rfl
@[simp] theorem State.setEncoded_gspd (s : State) (bytes : List Byte) : (s.setEncoded bytes).gspd = s.gspd := rfl
@[simp] theorem State.setEncoded_ghdg (s : State) (bytes : List Byte) : (s.setEncoded bytes).ghdg = s.ghdg := rfl
@[simp] theorem State.setEncoded_track (s : State) (bytes : List Byte) : (s.setEncoded bytes).track = s.track := rfl
@[simp] theorem State.setEncoded_latp (s : State) (bytes : List Byte) : (s.setEncoded bytes).latp = s.latp := rfl
@[simp] theorem State.setEncoded_lonp (s : State) (bytes : List Byte) : (s.setEncoded bytes).lonp = s.lonp := rfl
@[simp] theorem State.setEncoded_trkn (s : State) (bytes : List Byte) : (s.setEncoded bytes).trkn = s.trkn := rfl
@[simp] theorem State.setEncoded_altp (s : State) (bytes : List Byte) : (s.setEncoded bytes).altp = s.altp := rfl
@[simp] theorem State.setEncoded_par (s : State) (bytes : List Byte) : (s.setEncoded bytes).par = s.par := rfl
@[simp] theorem State.setEncoded_spd (s : State) (bytes : List Byte) : (s.setEncoded bytes).spd = s.spd := rfl
@[simp] theorem State.setEncoded_hdg (s : State) (bytes : List Byte) : (s.setEncoded bytes).hdg = s.hdg := rfl
@[simp] theorem State.setEncoded_buf (s : State) (bytes : List Byte) : (s.setEncoded bytes).buf = Memory.ofBytes bytes := rfl
@[simp] theorem State.setEncoded_pending (s : State) (bytes : List Byte) : (s.setEncoded bytes).pending = s.pending := rfl
@[simp] theorem State.setEncoded_returned (s : State) (bytes : List Byte) : (s.setEncoded bytes).returned = s.returned := rfl

/-! `State.setReport`: writes the eight report registers. -/

@[simp] theorem State.setReport_err (s : State) (r : Report) : (s.setReport r).err = s.err := rfl
@[simp] theorem State.setReport_einfo0 (s : State) (r : Report) : (s.setReport r).einfo0 = s.einfo0 := rfl
@[simp] theorem State.setReport_einfo1 (s : State) (r : Report) : (s.setReport r).einfo1 = s.einfo1 := rfl
@[simp] theorem State.setReport_nf (s : State) (r : Report) : (s.setReport r).nf = s.nf := rfl
@[simp] theorem State.setReport_len (s : State) (r : Report) : (s.setReport r).len = s.len := rfl
@[simp] theorem State.setReport_kind (s : State) (r : Report) : (s.setReport r).kind = s.kind := rfl
@[simp] theorem State.setReport_v (s : State) (r : Report) : (s.setReport r).v = s.v := rfl
@[simp] theorem State.setReport_w (s : State) (r : Report) : (s.setReport r).w = s.w := rfl
@[simp] theorem State.setReport_gtrack (s : State) (r : Report) : (s.setReport r).gtrack = s.gtrack := rfl
@[simp] theorem State.setReport_glat (s : State) (r : Report) : (s.setReport r).glat = s.glat := rfl
@[simp] theorem State.setReport_glon (s : State) (r : Report) : (s.setReport r).glon = s.glon := rfl
@[simp] theorem State.setReport_galt (s : State) (r : Report) : (s.setReport r).galt = s.galt := rfl
@[simp] theorem State.setReport_gspd (s : State) (r : Report) : (s.setReport r).gspd = s.gspd := rfl
@[simp] theorem State.setReport_ghdg (s : State) (r : Report) : (s.setReport r).ghdg = s.ghdg := rfl
@[simp] theorem State.setReport_track (s : State) (r : Report) : (s.setReport r).track = r.track := rfl
@[simp] theorem State.setReport_latp (s : State) (r : Report) : (s.setReport r).latp = r.latitudePacked := rfl
@[simp] theorem State.setReport_lonp (s : State) (r : Report) : (s.setReport r).lonp = r.longitudePacked := rfl
@[simp] theorem State.setReport_trkn (s : State) (r : Report) : (s.setReport r).trkn = r.trackNumber := rfl
@[simp] theorem State.setReport_altp (s : State) (r : Report) : (s.setReport r).altp = r.altitudePacked := rfl
@[simp] theorem State.setReport_par (s : State) (r : Report) : (s.setReport r).par = r.parity := rfl
@[simp] theorem State.setReport_spd (s : State) (r : Report) : (s.setReport r).spd = r.speedMs := rfl
@[simp] theorem State.setReport_hdg (s : State) (r : Report) : (s.setReport r).hdg = r.headingCdeg := rfl
@[simp] theorem State.setReport_buf (s : State) (r : Report) : (s.setReport r).buf = s.buf := rfl
@[simp] theorem State.setReport_pending (s : State) (r : Report) : (s.setReport r).pending = s.pending := rfl
@[simp] theorem State.setReport_returned (s : State) (r : Report) : (s.setReport r).returned = s.returned := rfl

/-! `State.setMessage`: writes `KIND` and the eight report registers. -/

@[simp] theorem State.setMessage_err (s : State) (tag : Byte) (r : Report) : (s.setMessage tag r).err = s.err := rfl
@[simp] theorem State.setMessage_einfo0 (s : State) (tag : Byte) (r : Report) : (s.setMessage tag r).einfo0 = s.einfo0 := rfl
@[simp] theorem State.setMessage_einfo1 (s : State) (tag : Byte) (r : Report) : (s.setMessage tag r).einfo1 = s.einfo1 := rfl
@[simp] theorem State.setMessage_nf (s : State) (tag : Byte) (r : Report) : (s.setMessage tag r).nf = s.nf := rfl
@[simp] theorem State.setMessage_len (s : State) (tag : Byte) (r : Report) : (s.setMessage tag r).len = s.len := rfl
@[simp] theorem State.setMessage_kind (s : State) (tag : Byte) (r : Report) : (s.setMessage tag r).kind = tag := rfl
@[simp] theorem State.setMessage_v (s : State) (tag : Byte) (r : Report) : (s.setMessage tag r).v = s.v := rfl
@[simp] theorem State.setMessage_w (s : State) (tag : Byte) (r : Report) : (s.setMessage tag r).w = s.w := rfl
@[simp] theorem State.setMessage_gtrack (s : State) (tag : Byte) (r : Report) : (s.setMessage tag r).gtrack = s.gtrack := rfl
@[simp] theorem State.setMessage_glat (s : State) (tag : Byte) (r : Report) : (s.setMessage tag r).glat = s.glat := rfl
@[simp] theorem State.setMessage_glon (s : State) (tag : Byte) (r : Report) : (s.setMessage tag r).glon = s.glon := rfl
@[simp] theorem State.setMessage_galt (s : State) (tag : Byte) (r : Report) : (s.setMessage tag r).galt = s.galt := rfl
@[simp] theorem State.setMessage_gspd (s : State) (tag : Byte) (r : Report) : (s.setMessage tag r).gspd = s.gspd := rfl
@[simp] theorem State.setMessage_ghdg (s : State) (tag : Byte) (r : Report) : (s.setMessage tag r).ghdg = s.ghdg := rfl
@[simp] theorem State.setMessage_track (s : State) (tag : Byte) (r : Report) : (s.setMessage tag r).track = r.track := rfl
@[simp] theorem State.setMessage_latp (s : State) (tag : Byte) (r : Report) : (s.setMessage tag r).latp = r.latitudePacked := rfl
@[simp] theorem State.setMessage_lonp (s : State) (tag : Byte) (r : Report) : (s.setMessage tag r).lonp = r.longitudePacked := rfl
@[simp] theorem State.setMessage_trkn (s : State) (tag : Byte) (r : Report) : (s.setMessage tag r).trkn = r.trackNumber := rfl
@[simp] theorem State.setMessage_altp (s : State) (tag : Byte) (r : Report) : (s.setMessage tag r).altp = r.altitudePacked := rfl
@[simp] theorem State.setMessage_par (s : State) (tag : Byte) (r : Report) : (s.setMessage tag r).par = r.parity := rfl
@[simp] theorem State.setMessage_spd (s : State) (tag : Byte) (r : Report) : (s.setMessage tag r).spd = r.speedMs := rfl
@[simp] theorem State.setMessage_hdg (s : State) (tag : Byte) (r : Report) : (s.setMessage tag r).hdg = r.headingCdeg := rfl
@[simp] theorem State.setMessage_buf (s : State) (tag : Byte) (r : Report) : (s.setMessage tag r).buf = s.buf := rfl
@[simp] theorem State.setMessage_pending (s : State) (tag : Byte) (r : Report) : (s.setMessage tag r).pending = s.pending := rfl
@[simp] theorem State.setMessage_returned (s : State) (tag : Byte) (r : Report) : (s.setMessage tag r).returned = s.returned := rfl

/-! `State.setFieldValues`: writes the `V[i]` that have an unpacked value. -/

@[simp] theorem State.setFieldValues_err (s : State) (vs : List Nat) : (s.setFieldValues vs).err = s.err := rfl
@[simp] theorem State.setFieldValues_einfo0 (s : State) (vs : List Nat) : (s.setFieldValues vs).einfo0 = s.einfo0 := rfl
@[simp] theorem State.setFieldValues_einfo1 (s : State) (vs : List Nat) : (s.setFieldValues vs).einfo1 = s.einfo1 := rfl
@[simp] theorem State.setFieldValues_nf (s : State) (vs : List Nat) : (s.setFieldValues vs).nf = s.nf := rfl
@[simp] theorem State.setFieldValues_len (s : State) (vs : List Nat) : (s.setFieldValues vs).len = s.len := rfl
@[simp] theorem State.setFieldValues_kind (s : State) (vs : List Nat) : (s.setFieldValues vs).kind = s.kind := rfl
@[simp] theorem State.setFieldValues_v (s : State) (vs : List Nat) : (s.setFieldValues vs).v = Vector.ofFn fun i => (vs[i.val]?).elim s.v[i] (BitVec.ofNat 32) := rfl
@[simp] theorem State.setFieldValues_w (s : State) (vs : List Nat) : (s.setFieldValues vs).w = s.w := rfl
@[simp] theorem State.setFieldValues_gtrack (s : State) (vs : List Nat) : (s.setFieldValues vs).gtrack = s.gtrack := rfl
@[simp] theorem State.setFieldValues_glat (s : State) (vs : List Nat) : (s.setFieldValues vs).glat = s.glat := rfl
@[simp] theorem State.setFieldValues_glon (s : State) (vs : List Nat) : (s.setFieldValues vs).glon = s.glon := rfl
@[simp] theorem State.setFieldValues_galt (s : State) (vs : List Nat) : (s.setFieldValues vs).galt = s.galt := rfl
@[simp] theorem State.setFieldValues_gspd (s : State) (vs : List Nat) : (s.setFieldValues vs).gspd = s.gspd := rfl
@[simp] theorem State.setFieldValues_ghdg (s : State) (vs : List Nat) : (s.setFieldValues vs).ghdg = s.ghdg := rfl
@[simp] theorem State.setFieldValues_track (s : State) (vs : List Nat) : (s.setFieldValues vs).track = s.track := rfl
@[simp] theorem State.setFieldValues_latp (s : State) (vs : List Nat) : (s.setFieldValues vs).latp = s.latp := rfl
@[simp] theorem State.setFieldValues_lonp (s : State) (vs : List Nat) : (s.setFieldValues vs).lonp = s.lonp := rfl
@[simp] theorem State.setFieldValues_trkn (s : State) (vs : List Nat) : (s.setFieldValues vs).trkn = s.trkn := rfl
@[simp] theorem State.setFieldValues_altp (s : State) (vs : List Nat) : (s.setFieldValues vs).altp = s.altp := rfl
@[simp] theorem State.setFieldValues_par (s : State) (vs : List Nat) : (s.setFieldValues vs).par = s.par := rfl
@[simp] theorem State.setFieldValues_spd (s : State) (vs : List Nat) : (s.setFieldValues vs).spd = s.spd := rfl
@[simp] theorem State.setFieldValues_hdg (s : State) (vs : List Nat) : (s.setFieldValues vs).hdg = s.hdg := rfl
@[simp] theorem State.setFieldValues_buf (s : State) (vs : List Nat) : (s.setFieldValues vs).buf = s.buf := rfl
@[simp] theorem State.setFieldValues_pending (s : State) (vs : List Nat) : (s.setFieldValues vs).pending = s.pending := rfl
@[simp] theorem State.setFieldValues_returned (s : State) (vs : List Nat) : (s.setFieldValues vs).returned = s.returned := rfl

/-! `State.toReset`: puts the core in its reset state. -/

@[simp] theorem State.toReset_err (s : State) : (s.toReset).err = State.reset.err := rfl
@[simp] theorem State.toReset_einfo0 (s : State) : (s.toReset).einfo0 = State.reset.einfo0 := rfl
@[simp] theorem State.toReset_einfo1 (s : State) : (s.toReset).einfo1 = State.reset.einfo1 := rfl
@[simp] theorem State.toReset_nf (s : State) : (s.toReset).nf = State.reset.nf := rfl
@[simp] theorem State.toReset_len (s : State) : (s.toReset).len = State.reset.len := rfl
@[simp] theorem State.toReset_kind (s : State) : (s.toReset).kind = State.reset.kind := rfl
@[simp] theorem State.toReset_v (s : State) : (s.toReset).v = State.reset.v := rfl
@[simp] theorem State.toReset_w (s : State) : (s.toReset).w = State.reset.w := rfl
@[simp] theorem State.toReset_gtrack (s : State) : (s.toReset).gtrack = State.reset.gtrack := rfl
@[simp] theorem State.toReset_glat (s : State) : (s.toReset).glat = State.reset.glat := rfl
@[simp] theorem State.toReset_glon (s : State) : (s.toReset).glon = State.reset.glon := rfl
@[simp] theorem State.toReset_galt (s : State) : (s.toReset).galt = State.reset.galt := rfl
@[simp] theorem State.toReset_gspd (s : State) : (s.toReset).gspd = State.reset.gspd := rfl
@[simp] theorem State.toReset_ghdg (s : State) : (s.toReset).ghdg = State.reset.ghdg := rfl
@[simp] theorem State.toReset_track (s : State) : (s.toReset).track = State.reset.track := rfl
@[simp] theorem State.toReset_latp (s : State) : (s.toReset).latp = State.reset.latp := rfl
@[simp] theorem State.toReset_lonp (s : State) : (s.toReset).lonp = State.reset.lonp := rfl
@[simp] theorem State.toReset_trkn (s : State) : (s.toReset).trkn = State.reset.trkn := rfl
@[simp] theorem State.toReset_altp (s : State) : (s.toReset).altp = State.reset.altp := rfl
@[simp] theorem State.toReset_par (s : State) : (s.toReset).par = State.reset.par := rfl
@[simp] theorem State.toReset_spd (s : State) : (s.toReset).spd = State.reset.spd := rfl
@[simp] theorem State.toReset_hdg (s : State) : (s.toReset).hdg = State.reset.hdg := rfl
@[simp] theorem State.toReset_buf (s : State) : (s.toReset).buf = State.reset.buf := rfl
@[simp] theorem State.toReset_pending (s : State) : (s.toReset).pending = s.pending := rfl
@[simp] theorem State.toReset_returned (s : State) : (s.toReset).returned = s.returned := rfl

/-- One value register after `UNPACK`. -/
@[simp] theorem State.setFieldValues_v_get (s : State) (vs : List Nat) (i : Fin 8) :
    (s.setFieldValues vs).v[i] = (vs[i.val]?).elim s.v[i] (BitVec.ofNat 32) := by
  simp [State.setFieldValues]

/-- Two states are equal when every register, the buffer and the host's side of the port are. -/
theorem State.ext_fields {s t : State}
    (h_err : s.err = t.err)
    (h_einfo0 : s.einfo0 = t.einfo0)
    (h_einfo1 : s.einfo1 = t.einfo1)
    (h_nf : s.nf = t.nf)
    (h_len : s.len = t.len)
    (h_kind : s.kind = t.kind)
    (h_v : s.v = t.v)
    (h_w : s.w = t.w)
    (h_gtrack : s.gtrack = t.gtrack)
    (h_glat : s.glat = t.glat)
    (h_glon : s.glon = t.glon)
    (h_galt : s.galt = t.galt)
    (h_gspd : s.gspd = t.gspd)
    (h_ghdg : s.ghdg = t.ghdg)
    (h_track : s.track = t.track)
    (h_latp : s.latp = t.latp)
    (h_lonp : s.lonp = t.lonp)
    (h_trkn : s.trkn = t.trkn)
    (h_altp : s.altp = t.altp)
    (h_par : s.par = t.par)
    (h_spd : s.spd = t.spd)
    (h_hdg : s.hdg = t.hdg)
    (h_buf : s.buf = t.buf)
    (h_pending : s.pending = t.pending)
    (h_returned : s.returned = t.returned) :
    s = t := by
  cases s; cases t; simp_all

end Sys2Proof.Machine
end

