-- ==== Sys2Proof/Laws/Ops.lean ====
section
/-!
SUPPORT. What each shared operation can do, once: the two ends of a command, and the reading of operands with its checks.
-/

namespace Sys2Proof.Machine

@[simp] theorem commit_ok (s t : State) : commit s (.ok t) = .next t.complete := rfl

@[simp] theorem commit_error (s : State) (e : CmdError) : commit s (.error e) = .next (s.raise e) := rfl

/-- A command that answers a next state completed or raised. -/
theorem commit_next {s t : State} {r : Except CmdError State} (h : commit s r = .next t) :
    (∃ u, r = .ok u ∧ t = u.complete) ∨ (∃ e, r = .error e ∧ t = s.raise e) := by
  cases r with
  | ok u => simp at h; exact .inl ⟨u, rfl, h.symm⟩
  | error e => simp at h; exact .inr ⟨e, rfl, h.symm⟩

/-- No error has the code of a completion. -/
@[simp] theorem errorCode_ne_zero (e : CmdError) : errorCode e ≠ 0#8 := by cases e <;> simp [errorCode]

/-- A buffer that is read has as many bytes as `LEN` says, and byte `i` is `BUF[i]`. -/
theorem readBuffer_ok {s : State} {b : List Byte} (h : readBuffer s = .ok b) :
    s.len.toNat ≤ 32 ∧ b.length = s.len.toNat ∧ ∀ i, i < s.len.toNat → b[i]? = some (s.buf.read i) := by
  unfold readBuffer at h
  split at h
  · rename_i hl
    cases h
    exact ⟨hl, by simp, fun i hi => by simp [hi]⟩
  · cases h

theorem readBuffer_error {s : State} {e : CmdError} (h : readBuffer s = .error e) :
    32 < s.len.toNat ∧ e = .badOperand (.len s.len) := by
  unfold readBuffer at h
  split at h
  · cases h
  · rename_i hl
    cases h
    exact ⟨by simpa using hl, rfl⟩

theorem fieldIndices_ok {s : State} {is : List (Fin 8)} (h : fieldIndices s = .ok is) :
    s.nf.toNat ≤ 8 ∧ is = (List.finRange 8).take s.nf.toNat := by
  unfold fieldIndices at h
  split at h
  · rename_i hn
    cases h
    exact ⟨hn, rfl⟩
  · cases h

theorem fieldIndices_error {s : State} {e : CmdError} (h : fieldIndices s = .error e) :
    8 < s.nf.toNat ∧ e = .badOperand (.nf s.nf) := by
  unfold fieldIndices at h
  split at h
  · cases h
  · rename_i hn
    cases h
    exact ⟨by simpa using hn, rfl⟩

/-- Widths that are read are those of the width registers, in order. -/
theorem readWidths_ok {s : State} {is : List (Fin 8)} {ws : List (Fin 8 × Width)} (h : readWidths s is = .ok ws) :
    ws.map Prod.fst = is ∧ ∀ p ∈ ws, p.2.bits = (s.w[p.1]).toNat := by
  induction is generalizing ws with
  | nil => cases h; simp
  | cons i is ih =>
    simp only [readWidths, readWidth] at h
    split at h
    · cases h
    · rename_i w hw
      split at hw
      · cases hw
        split at h
        · cases h
        · rename_i ws' hws
          cases h
          obtain ⟨h1, h2⟩ := ih hws
          refine ⟨by simp [h1], ?_⟩
          intro p hp
          rcases List.mem_cons.mp hp with rfl | hp
          · rfl
          · exact h2 p hp
      · cases hw

/-- The width error is the first illegal width. -/
theorem readWidths_error {s : State} {is : List (Fin 8)} {e : CmdError} (h : readWidths s is = .error e) :
    ∃ pre i post, is = pre ++ i :: post ∧ e = .badOperand (.width i.val) ∧
      ¬ (1 ≤ (s.w[i]).toNat ∧ (s.w[i]).toNat ≤ 32) ∧
      ∀ j ∈ pre, 1 ≤ (s.w[j]).toNat ∧ (s.w[j]).toNat ≤ 32 := by
  induction is with
  | nil => cases h
  | cons i is ih =>
    simp only [readWidths, readWidth] at h
    split at h
    · rename_i e' hw
      split at hw
      · cases hw
      · rename_i hn
        cases hw; cases h
        exact ⟨[], i, is, rfl, rfl, hn, by simp⟩
    · rename_i w hw
      split at hw
      · rename_i hi
        split at h
        · rename_i e' he
          cases h
          obtain ⟨pre, j, post, h1, h2, h3, h4⟩ := ih he
          refine ⟨i :: pre, j, post, by simp [h1], h2, h3, ?_⟩
          intro k hk
          rcases List.mem_cons.mp hk with rfl | hk
          · exact hi
          · exact h4 k hk
        · cases h
      · cases hw

/-- Fields that are read hold the value registers at their indices. -/
theorem readFields_ok {s : State} {ws : List (Fin 8 × Width)} {fs : List BitField} (h : readFields s ws = .ok fs) :
    fs.map (·.width) = ws.map Prod.snd ∧ fs.map (·.value) = ws.map fun p => (s.v[p.1]).toNat := by
  induction ws generalizing fs with
  | nil => cases h; simp
  | cons p ws ih =>
    obtain ⟨i, w⟩ := p
    simp only [readFields, readField] at h
    split at h
    · cases h
    · rename_i f hf
      split at hf
      · cases hf
        split at h
        · cases h
        · rename_i fs' hfs
          cases h
          obtain ⟨h1, h2⟩ := ih hfs
          exact ⟨by simp [h1], by simp [h2]⟩
      · cases hf

/-- The value error is the first value that does not fit. -/
theorem readFields_error {s : State} {ws : List (Fin 8 × Width)} {e : CmdError} (h : readFields s ws = .error e) :
    ∃ pre p post, ws = pre ++ p :: post ∧ e = .fieldRange p.1.val ∧ ¬ (s.v[p.1]).toNat < 2 ^ p.2.bits ∧
      ∀ q ∈ pre, (s.v[q.1]).toNat < 2 ^ q.2.bits := by
  induction ws with
  | nil => cases h
  | cons p ws ih =>
    obtain ⟨i, w⟩ := p
    simp only [readFields, readField] at h
    split at h
    · rename_i e' hf
      split at hf
      · cases hf
      · rename_i hn
        cases hf; cases h
        exact ⟨[], (i, w), ws, rfl, rfl, hn, by simp⟩
    · rename_i f hf
      split at hf
      · rename_i hi
        split at h
        · rename_i e' he
          cases h
          obtain ⟨pre, q, post, h1, h2, h3, h4⟩ := ih he
          refine ⟨(i, w) :: pre, q, post, by simp [h1], h2, h3, ?_⟩
          intro k hk
          rcases List.mem_cons.mp hk with rfl | hk
          · exact hi
          · exact h4 k hk
        · cases h
      · cases hf

/-- Legal widths are read whole. -/
theorem readWidths_total (s : State) (is : List (Fin 8))
    (h : ∀ i ∈ is, 1 ≤ (s.w[i]).toNat ∧ (s.w[i]).toNat ≤ 32) : ∃ ws, readWidths s is = .ok ws := by
  cases hr : readWidths s is with
  | ok ws => exact ⟨ws, rfl⟩
  | error e =>
    obtain ⟨pre, i, post, h1, _, h3, _⟩ := readWidths_error hr
    exact absurd (h i (by simp [h1])) h3

/-- Fitting values are read whole. -/
theorem readFields_total (s : State) (ws : List (Fin 8 × Width))
    (h : ∀ p ∈ ws, (s.v[p.1]).toNat < 2 ^ p.2.bits) : ∃ fs, readFields s ws = .ok fs := by
  cases hr : readFields s ws with
  | ok fs => exact ⟨fs, rfl⟩
  | error e =>
    obtain ⟨pre, p, post, h1, _, h3, _⟩ := readFields_error hr
    exact absurd (h p (by simp [h1])) h3

end Sys2Proof.Machine
end

