-- ==== Sys2Proof/Laws/PerInstr.lean ====
section
/-!
SUPPORT. Statements for all instructions, made per instruction. Family `CarriesLegalFields`: the fields an instruction
carries meet the precondition of `pack`. Family `EncodesInItsFormat`: an instruction's encoding has the format its row of
the opcode table names.
-/

namespace Sys2Proof.Laws

open Sys2Proof Sys2Proof.Machine

/-- The instruction is well-formed. -/
def CarriesLegalFields.Statement (i : Instr) : Prop := i.wf = true

theorem CarriesLegalFields.nop : CarriesLegalFields.Statement .nop := rfl
theorem CarriesLegalFields.clr : CarriesLegalFields.Statement .clr := rfl
theorem CarriesLegalFields.pack : CarriesLegalFields.Statement .pack := rfl
theorem CarriesLegalFields.unpack : CarriesLegalFields.Statement .unpack := rfl
theorem CarriesLegalFields.qlat : CarriesLegalFields.Statement .qlat := rfl
theorem CarriesLegalFields.qlon : CarriesLegalFields.Statement .qlon := rfl
theorem CarriesLegalFields.qalt : CarriesLegalFields.Statement .qalt := rfl
theorem CarriesLegalFields.qtrk : CarriesLegalFields.Statement .qtrk := rfl
theorem CarriesLegalFields.fromgeo : CarriesLegalFields.Statement .fromgeo := rfl
theorem CarriesLegalFields.benc : CarriesLegalFields.Statement .benc := rfl
theorem CarriesLegalFields.bdec : CarriesLegalFields.Statement .bdec := rfl
theorem CarriesLegalFields.menc : CarriesLegalFields.Statement .menc := rfl
theorem CarriesLegalFields.mdec : CarriesLegalFields.Statement .mdec := rfl

theorem CarriesLegalFields.msgAirtrack (r : Report) : CarriesLegalFields.Statement (.msgAirtrack r) := by
  have h : ∀ {n : Nat} (x : BitVec n), x.toNat < 2 ^ n := fun x => x.isLt
  simp only [CarriesLegalFields.Statement, Instr.wf, Report.descriptors, List.all_cons, List.all_nil, Bool.and_true,
    descriptorLegal, h, decide_true]
  rfl

/-- A command is one word whose bits 31:8 are zero, a frame sixteen bytes of which the first is the kind tag. -/
def EncodesInItsFormat.Statement (i : Instr) : Prop :=
  match encode i with
  | .command c => commandZero c = 0
  | .frame bytes => bytes.length = Config.frameBytes ∧ bytes.head? = some Config.kindAirtrack

theorem EncodesInItsFormat.nop : EncodesInItsFormat.Statement .nop := rfl
theorem EncodesInItsFormat.clr : EncodesInItsFormat.Statement .clr := rfl
theorem EncodesInItsFormat.pack : EncodesInItsFormat.Statement .pack := rfl
theorem EncodesInItsFormat.unpack : EncodesInItsFormat.Statement .unpack := rfl
theorem EncodesInItsFormat.qlat : EncodesInItsFormat.Statement .qlat := rfl
theorem EncodesInItsFormat.qlon : EncodesInItsFormat.Statement .qlon := rfl
theorem EncodesInItsFormat.qalt : EncodesInItsFormat.Statement .qalt := rfl
theorem EncodesInItsFormat.qtrk : EncodesInItsFormat.Statement .qtrk := rfl
theorem EncodesInItsFormat.fromgeo : EncodesInItsFormat.Statement .fromgeo := rfl
theorem EncodesInItsFormat.benc : EncodesInItsFormat.Statement .benc := rfl
theorem EncodesInItsFormat.bdec : EncodesInItsFormat.Statement .bdec := rfl
theorem EncodesInItsFormat.menc : EncodesInItsFormat.Statement .menc := rfl
theorem EncodesInItsFormat.mdec : EncodesInItsFormat.Statement .mdec := rfl

theorem EncodesInItsFormat.msgAirtrack (r : Report) : EncodesInItsFormat.Statement (.msgAirtrack r) := by
  refine ⟨by simp [frameBytesOf], ?_⟩
  have h : (frameBits r).extractLsb' 120 8 = 0x32#8 := by
    unfold frameBits
    rw [BitVec.extractLsb'_append_eq_of_le (by omega), BitVec.extractLsb'_append_eq_of_le (by omega),
      BitVec.extractLsb'_append_eq_of_le (by omega), BitVec.extractLsb'_append_eq_of_le (by omega),
      BitVec.extractLsb'_append_eq_of_le (by omega), BitVec.extractLsb'_append_eq_of_le (by omega),
      BitVec.extractLsb'_append_eq_of_le (by omega), BitVec.extractLsb'_append_eq_of_le (by omega)]
    exact BitVec.extractLsb'_append_eq_left
  show (frameBytesOf (frameBits r)).head? = some Config.kindAirtrack
  simp [frameBytesOf, List.range_succ_eq_map, h]

end Sys2Proof.Laws
end

