-- ==== Sys2Proof/Laws/Quantization.lean ====
section
/-!
SUPPORT. The quantizers with their constants written out as in 41_quantization.md, and `signed32` as Lean's own reading of
a two's-complement word.
-/

namespace Sys2Proof.Machine

theorem qLat_eq (x : Int) :
    qLat x = if x < -900000000 ∨ 900000000 < x then .error (.quantizationOverflow .latitude)
      else .ok (roundHaz ((x + 900000000) * 524287) 1800000000) := by
  simp [qLat, Config.degUnits, Config.latLonMaxCode]

theorem qLon_eq (x : Int) :
    qLon x = if x < -1800000000 ∨ 1800000000 < x then .error (.quantizationOverflow .longitude)
      else .ok (roundHaz ((x + 1800000000) * 524287) 3600000000) := by
  simp [qLon, Config.degUnits, Config.latLonMaxCode]

theorem qAlt_eq (x : Int) :
    qAlt x = if x < 0 ∨ 124838456 < x then .error (.quantizationOverflow .altitude)
      else .ok (roundHaz (x * 328084) 2500000000) := by
  simp [qAlt, Config.altMaxUnits, Config.feetPerMetreNum, Config.feetPerMetreDen, Config.altUnits, Config.altStepFeet]

/-- On a number that is not negative the rounding is one floor division. -/
theorem roundHaz_of_nonneg {n : Int} (d : Int) (h : 0 ≤ n) : roundHaz n d = (2 * n + d) / (2 * d) := by
  simp [roundHaz, h]

theorem signed32_eq_toInt (x : Word) : signed32 x = x.toInt := by
  simp only [signed32, BitVec.toInt_eq_toNat_cond]
  have := x.isLt
  split <;> split <;> simp_all <;> omega

theorem signed32_bounds (x : Word) : -2 ^ 31 ≤ signed32 x ∧ signed32 x < 2 ^ 31 := by
  have := x.isLt
  simp only [signed32]
  split <;> constructor <;> omega

end Sys2Proof.Machine
end

