-- ==== Sys2Proof/Machine/Script.lean ====
section
/-!
DEFINITION. The script notation of 30_encoding.md R100: each line as the host accesses it stands for, so that a host
program is a list of events. R100 gives no expansion of a line with more entries than there are registers, or with a number
of more than 32 bits; what these functions give for one is the model's choice: DESIGN CHOICE (log 16), unsafe.
-/

namespace Sys2Proof.Machine.Script

open Sys2Proof Sys2Proof.Machine

/-- `WR reg, value`. -/
def wr (r : HostReg) (value : Word) : HostEvent := .write (hostOffset r) value

/-- `WRB i, byte`. -/
def wrb (i : Fin 32) (byte : Word) : HostEvent := wr (.buf i) byte

/-- `RD reg`. -/
def rd (r : HostReg) : HostEvent := .read (hostOffset r)

/-- `RDB i`. -/
def rdb (i : Fin 32) : HostEvent := rd (.buf i)

/-- `CMD mnemonic`, for an instruction that has a command word; the wire-format row has none (30_encoding.md R96). -/
def cmd (i : Instr) : Option HostEvent :=
  match encode i with
  | .command c => some (wr .cmd c)
  | .frame _ => none

/-- The writes of the field table from index `i` on. An entry past the eighth, for which R100 has no register, gives no
write: DESIGN CHOICE (log 16), unsafe. -/
def fieldWrites : Nat → List (Word × Word) → List HostEvent
  | _, [] => []
  | i, (v, w) :: rest =>
    if h : i < 8 then wr (.v ⟨i, h⟩) v :: wr (.w ⟨i, h⟩) w :: fieldWrites (i + 1) rest else []

/-- `FIELDS (v0:w0) (v1:w1) ...`. With more than eight entries, of which R100 gives no expansion, `NF` is still written with
their whole number: DESIGN CHOICE (log 16), unsafe. -/
def fields (vws : List (Word × Word)) : List HostEvent :=
  fieldWrites 0 vws ++ [wr .nf (BitVec.ofNat 32 vws.length)]

/-- The writes of the width registers from index `i` on. A width past the eighth, for which R100 has no register, gives no
write: DESIGN CHOICE (log 16), unsafe. -/
def widthWrites : Nat → List Word → List HostEvent
  | _, [] => []
  | i, w :: rest => if h : i < 8 then wr (.w ⟨i, h⟩) w :: widthWrites (i + 1) rest else []

/-- `WIDTHS w0 w1 ...`. With more than eight widths, of which R100 gives no expansion, `NF` is still written with their whole
number: DESIGN CHOICE (log 16), unsafe. -/
def widths (ws : List Word) : List HostEvent :=
  widthWrites 0 ws ++ [wr .nf (BitVec.ofNat 32 ws.length)]

/-- The writes of the buffer from byte `i` on. A byte past the thirty-second, for which R100 has no register, gives no
write: DESIGN CHOICE (log 16), unsafe. -/
def byteWrites : Nat → List Byte → List HostEvent
  | _, [] => []
  | i, b :: rest => if h : i < 32 then wrb ⟨i, h⟩ (b.setWidth 32) :: byteWrites (i + 1) rest else []

/-- `LOADBUF b0 b1 ...`. With more than 32 bytes, of which R100 gives no expansion, `LEN` is still written with their whole
number: DESIGN CHOICE (log 16), unsafe. -/
def loadbuf (bytes : List Byte) : List HostEvent :=
  byteWrites 0 bytes ++ [wr .len (BitVec.ofNat 32 bytes.length)]

/-- `GEO track, lat, lon, alt, spd, hdg`, the values in register units. Of a number that has no 32-bit
pattern, of which R100 does not speak, the low 32 bits are written: DESIGN CHOICE (log 16), unsafe. -/
def geo (track : Word) (lat lon alt : Int) (spd hdg : Word) : List HostEvent :=
  [wr .gtrack track, wr .glat (BitVec.ofInt 32 lat), wr .glon (BitVec.ofInt 32 lon), wr .galt (BitVec.ofInt 32 alt),
    wr .gspd spd, wr .ghdg hdg]

end Sys2Proof.Machine.Script
end

