-- ==== Sys2Proof/Tests/Slice0.lean ====
section
/-!
SUPPORT. The model's own tests: the smoke tests of WellFormed, words written out from the spec's encodings, one step of each
instruction on the vectors of 95_test_vectors.md (V<n>, T<n>, P<n>), and for every statement with hypotheses a witness that
meets them.
-/

-- The tests are elaborated one after another: many at a time take more threads than the sandbox gives.
set_option Elab.async false

namespace Sys2Proof.Tests

open Sys2Proof Sys2Proof.Machine

/-! ## Helpers -/

/-- The state an outcome gives, if it gives one. -/
def nextState : Host.Outcome State Fault Refusal → Option State
  | .next t => some t
  | _ => none

/-- Something of the state after an instruction. -/
def after {α : Type} (i : Instr) (s : State) (f : State → α) : Option α := (nextState (exec i s)).map f

/-- `STATUS`, `EINFO0`, `EINFO1`. -/
def outcome (s : State) : Nat × Nat × Nat := (s.err.toNat, s.einfo0.toNat, s.einfo1.toNat)

/-- The reset state with a buffer. -/
def bufState (bytes : List Byte) : State :=
  { State.reset with buf := Memory.ofBytes bytes, len := BitVec.ofNat 32 bytes.length }

/-- The reset state with a field table of (value, width) entries; `NF` is their number. -/
def fieldState (fs : List (Nat × Nat)) : State :=
  { State.reset with
    nf := BitVec.ofNat 32 fs.length
    v := Vector.ofFn fun i => BitVec.ofNat 32 (fs.getD i.val (0, 0)).1
    w := Vector.ofFn fun i => BitVec.ofNat 32 (fs.getD i.val (0, 0)).2 }

/-- The reset state with latitude, longitude and altitude inputs. -/
def geoState (lat lon alt : Int) : State :=
  { State.reset with glat := BitVec.ofInt 32 lat, glon := BitVec.ofInt 32 lon, galt := BitVec.ofInt 32 alt }

/-- The scenario's report (T1, V22). -/
def scenario : Report := ⟨42, 393575, 83030, 42, 197, 0, 220, 271⟩

/-- The largest report (V21). -/
def fullReport : Report := ⟨0xFFFF, 0x7FFFF, 0x7FFFF, 0xFFF, 0x3FFF, 0x1F, 0xFFFF, 0xFFFF⟩

/-- The scenario's geodetic registers (T1). -/
def scenarioGeo : State :=
  { geoState 451234567 (-1229876543) 1500900 with gtrack := 42, gspd := 220, ghdg := 271 }

/-- The scenario's body (T1). -/
def scenarioBody : List Byte :=
  [0x00, 0x2A, 0xC0, 0x2C, 0xE5, 0x11, 0x58, 0x0A, 0x80, 0xC5, 0x00, 0x06, 0xE0, 0x08, 0x78]

/-- The scenario's report in the report registers, with its kind (V30). -/
def scenarioRegs : State := { State.reset.setReport scenario with kind := 0x32 }

/-- The first `n` bytes of the buffer. -/
def firstBytes (n : Nat) (s : State) : List Byte := (List.range n).map s.buf.read

/-! ## WellFormed -/

theorem test_wf_refuses_width_zero : widthLegal 0 = false := by decide
theorem test_wf_refuses_width_33 : widthLegal 33 = false := by decide
theorem test_wf_accepts_width_32 : widthLegal 32 = true := by decide
theorem test_wf_refuses_value_too_big : descriptorLegal (8, 3) = false := by decide
theorem test_wf_refuses_descriptor_of_width_33 : descriptorLegal (0, 33) = false := by decide
theorem test_wf_refuses_layout_with_missing_field : Layout.wf [.track, .parity] = false := by decide
theorem test_wf_refuses_layout_with_repeated_field :
    Layout.wf [.track, .track, .longitudePacked, .trackNumber, .altitudePacked, .parity, .speedMs, .headingCdeg] = false := by
  decide
theorem test_wf_accepts_the_layout : Layout.wf airTrackLayout = true := by decide
theorem test_wf_refuses_registry_with_repeated_tag : Registry.wf (adsRegistry ++ adsRegistry) = false := by decide
/-- One kind under two tags. -/
theorem test_wf_refuses_registry_with_repeated_kind :
    Registry.wf (adsRegistry ++ adsRegistry.map fun e => { e with tag := 0x33 }) = false := by decide
theorem test_wf_accepts_the_registry : Registry.wf adsRegistry = true := by decide
theorem test_wf_accepts_full_frame : Instr.wf (.msgAirtrack fullReport) = true := by decide

/-! ## Decoding: words written out from 30_encoding.md R90, R91 and R96, bits 31:8 zero, then the opcode -/

theorem test_decode_nop : decode (.command 0b00000000000000000000000000000000) = .ok .nop := by decide
theorem test_decode_clr : decode (.command 0b00000000000000000000000000000001) = .ok .clr := by decide
theorem test_decode_pack : decode (.command 0b00000000000000000000000000010000) = .ok .pack := by decide
theorem test_decode_unpack : decode (.command 0b00000000000000000000000000010001) = .ok .unpack := by decide
theorem test_decode_qlat : decode (.command 0b00000000000000000000000000100000) = .ok .qlat := by decide
theorem test_decode_qlon : decode (.command 0b00000000000000000000000000100001) = .ok .qlon := by decide
theorem test_decode_qalt : decode (.command 0b00000000000000000000000000100010) = .ok .qalt := by decide
theorem test_decode_qtrk : decode (.command 0b00000000000000000000000000100011) = .ok .qtrk := by decide
theorem test_decode_fromgeo : decode (.command 0b00000000000000000000000000110000) = .ok .fromgeo := by decide
theorem test_decode_benc : decode (.command 0b00000000000000000000000000110001) = .ok .benc := by decide
theorem test_decode_bdec : decode (.command 0b00000000000000000000000000110010) = .ok .bdec := by decide
theorem test_decode_menc : decode (.command 0b00000000000000000000000001000000) = .ok .menc := by decide
theorem test_decode_mdec : decode (.command 0b00000000000000000000000001000001) = .ok .mdec := by decide

/-- T1, bit by bit: kind, track 42, latitude 393575, longitude 83030, track number 42, altitude 197, parity 0, speed 220,
heading 271, padding; the number's top bit is stream bit 0. -/
theorem test_decode_frame_bit_by_bit :
    decode (.frame (frameBytesOf
      (0b00110010#8 ++ 0b0000000000101010#16 ++ 0b1100000000101100111#19 ++ 0b0010100010001010110#19 ++
        0b000000101010#12 ++ 0b00000011000101#14 ++ 0b00000#5 ++ 0b0000000011011100#16 ++ 0b0000000100001111#16 ++
        0b000#3))) = .ok (.msgAirtrack scenario) := by decide +kernel

theorem test_decode_frame_bytes : decode (.frame (0x32 :: scenarioBody)) = .ok (.msgAirtrack scenario) := by decide +kernel

/-- V24 and V33: padding bits set, and bytes after the frame. -/
theorem test_decode_frame_ignores_padding_and_trailer :
    decode (.frame (0x32 :: scenarioBody.take 14 ++ [0x7F, 0xFF, 0xFF])) = .ok (.msgAirtrack scenario) := by decide +kernel

/-- V57 and V58, and the ends of the reserved opcode ranges (30_encoding.md R92). -/
theorem test_decode_refuses_reserved_words :
    ([0x00000002, 0x0000000F, 0x00000012, 0x00000024, 0x00000033, 0x00000042, 0x000000FF, 0x80000010] : List Word).all
      (fun c => decide (decode (.command c) = .error (.illegalCommand c))) = true := by decide

/-- V34, V36, V37. -/
theorem test_decode_refuses_bad_frames :
    decode (.frame []) = .error (.shortBuffer 8 0) ∧
    decode (.frame (0x32 :: scenarioBody.take 14)) = .error (.shortBuffer 117 112) ∧
    decode (.frame (0x99 :: scenarioBody.take 14)) = .error (.unsupportedKind 0x99) := by decide +kernel

/-- The table's numbering: a command word of 32 bits, a frame of 128 bits with frame byte 0 lowest (log 9). -/
theorem test_decodeTableWord :
    decodeTableWord 32 0x41 = some .mdec ∧ decodeTableWord 32 0x2 = none ∧
    decodeTableWord 128 0x7808E00600C5800A5811E52CC02A0032 = some (.msgAirtrack scenario) := by decide +kernel

/-- `withFetchWord` puts an instruction where the next step runs it (logs 1 and 9). -/
theorem test_withFetchWord_runs_a_command :
    (nextState (step (scenarioGeo.withFetchWord 32 0x30))).map reportRegs = some scenario := by decide +kernel
theorem test_withFetchWord_runs_a_frame :
    (nextState (step (State.reset.withFetchWord 128 0x7808E00600C5800A5811E52CC02A0032))).map
      (fun t => (t.kind, reportRegs t, t.err)) = some (0x32, scenario, 0) := by decide +kernel

/-! ## The envelope over two kinds (43_envelope.md R210, R215) -/

/-- What messages carry when there is a second kind, `false`: one byte. -/
abbrev TwoPayloads : Bool → Type
  | true => Report
  | false => Byte

/-- A registry of the air-track codec alone, over the two kinds. -/
def oneOfTwo : Registry TwoPayloads := [⟨0x32, true, airTrackCodec airTrackLayout⟩]

/-- A second entry: the codec of one byte, under the tag 0x33. -/
def byteEntry : KindEntry TwoPayloads :=
  ⟨0x33, false, fun b => [b], fun bytes => match bytes with | [] => .error (.shortBuffer 8 0) | b :: _ => .ok b⟩

/-- Each message gets its own kind's tag and codec, the air-track codec unchanged. -/
theorem test_second_kind_encodes :
    envEncode (oneOfTwo ++ [byteEntry]) ⟨false, 0xAB⟩ rfl = [0x33, 0xAB] ∧
    envEncode (oneOfTwo ++ [byteEntry]) ⟨true, scenario⟩ rfl = 0x32 :: scenarioBody := by decide +kernel

/-! ## One step of each instruction -/

/-- V60. -/
theorem test_nop_clears_the_error :
    after .nop { State.reset with err := 2, einfo0 := 0x99, len := 7 } (fun t => (outcome t, t.len)) =
      some ((0, 0, 0), 7) := by decide

/-- V59. -/
theorem test_clr_resets : after .clr { scenarioRegs with len := 40 } (fun t => decide (t = State.reset)) = some true := by
  decide +kernel

/-- V3. -/
theorem test_pack_crosses_bytes :
    after .pack (fieldState [(5, 3), (0x1FF, 9), (0xA, 4)]) (fun t => (t.len.toNat, firstBytes 3 t)) =
      some (2, [0xBF, 0xFA, 0x00]) := by decide +kernel

/-- V6: a 32-bit field over five bytes. -/
theorem test_pack_widest_field :
    after .pack (fieldState [(1, 1), (0xDEADBEEF, 32)]) (fun t => (t.len.toNat, firstBytes 5 t)) =
      some (5, [0xEF, 0x56, 0xDF, 0x77, 0x80]) := by decide +kernel

/-- V9h. -/
theorem test_unpack_crosses_bytes :
    after .unpack { bufState [0xFB, 0xD5, 0xB7, 0xDD, 0xE1] with nf := 3, w := #v[3, 32, 5, 0, 0, 0, 0, 0] }
      (fun t => t.v) = some #v[7, 0xDEADBEEF, 1, 0, 0, 0, 0, 0] := by decide +kernel

/-- V9k. -/
theorem test_unpack_short_buffer :
    after .unpack { bufState [0xBF] with nf := 3, w := #v[3, 9, 4, 0, 0, 0, 0, 0] } (fun t => (outcome t, t.v[0])) =
      some ((1, 16, 8), 0) := by decide +kernel

/-- V10. -/
theorem test_qlat_scenario : after .qlat scenarioGeo (·.latp) = some 393575 := by decide +kernel
theorem test_qlat_rounds_up_from_the_half :
    after .qlat (geoState 0 0 0) (·.latp) = some 262144 ∧ after .qlat (geoState (-1) 0 0) (·.latp) = some 262143 := by
  decide +kernel

/-- V11. -/
theorem test_qlon_scenario : after .qlon scenarioGeo (·.lonp) = some 83030 := by decide +kernel
theorem test_qlon_end_of_domain :
    after .qlon (geoState 0 1800000000 0) (·.lonp) = some 524287 ∧
    after .qlon (geoState 0 1800000001 0) outcome = some (3, 2, 0) := by decide +kernel

/-- V12. -/
theorem test_qalt_first_code :
    after .qalt (geoState 0 0 3809) (·.altp) = some 0 ∧ after .qalt (geoState 0 0 3810) (·.altp) = some 1 := by
  decide +kernel
theorem test_qalt_end_of_domain :
    after .qalt (geoState 0 0 124838456) (·.altp) = some 16383 ∧
    after .qalt (geoState 0 0 124838457) outcome = some (3, 3, 0) := by decide +kernel

/-- T4. -/
theorem test_qtrk_masks :
    after .qtrk { State.reset with gtrack := 0xF02A } (fun t => (t.track, t.trkn)) = some (0xF02A, 0x02A) := by decide

/-- T1, and P5: all three inputs out of domain. -/
theorem test_fromgeo_scenario : after .fromgeo scenarioGeo reportRegs = some scenario := by decide +kernel
theorem test_fromgeo_reports_latitude_first :
    after .fromgeo (geoState 900000001 1800000001 (-1)) outcome = some (3, 1, 0) := by decide +kernel

/-- V22, V21. -/
theorem test_benc_scenario :
    after .benc scenarioRegs (fun t => (t.len.toNat, firstBytes 16 t)) = some (15, scenarioBody ++ [0x00]) := by
  decide +kernel
theorem test_benc_full :
    after .benc (State.reset.setReport fullReport) (firstBytes 15) = some (List.replicate 14 0xFF ++ [0xF8]) := by
  decide +kernel

/-- V27, V29. -/
theorem test_bdec_counting_bytes :
    after .bdec (bufState [1, 2, 3, 4, 5, 6, 7, 8, 9, 10, 11, 12, 13, 14, 15]) reportRegs =
      some ⟨258, 6176, 82305, 3104, 2314, 1, 24961, 41409⟩ := by decide +kernel
theorem test_bdec_short : after .bdec (bufState (scenarioBody.take 14)) outcome = some (1, 117, 112) := by decide +kernel

/-- V30, V40. -/
theorem test_menc_scenario :
    after .menc scenarioRegs (fun t => (t.len.toNat, firstBytes 16 t)) = some (16, 0x32 :: scenarioBody) := by
  decide +kernel
theorem test_menc_after_reset : after .menc State.reset outcome = some (2, 0, 0) := by decide +kernel

/-- V32, V37. -/
theorem test_mdec_scenario :
    after .mdec (bufState (0x32 :: scenarioBody)) (fun t => (t.kind, reportRegs t)) = some (0x32, scenario) := by
  decide +kernel
theorem test_mdec_unknown_kind :
    after .mdec (bufState (0x99 :: scenarioBody.take 14)) (fun t => (outcome t, t.kind)) = some ((2, 0x99, 0), 0) := by
  decide +kernel

theorem test_msgAirtrack :
    after (.msgAirtrack scenario) State.reset (fun t => (t.kind, reportRegs t)) = some (0x32, scenario) := by decide +kernel

/-- V50 to V53: the width rule at the port. -/
theorem test_host_writes_keep_the_low_bits :
    (nextState (hostWrite 0x044 0xFFFFFFFF State.reset)).map (hostRead · 0x044) = some 0x0007FFFF ∧
    (nextState (hostWrite 0x04C 0x00012345 State.reset)).map (hostRead · 0x04C) = some 0x00000345 ∧
    (nextState (hostWrite 0x10C 0x1FF State.reset)).map (hostRead · 0x10C) = some 0x000000FF ∧
    (nextState (hostWrite 0x018 0x100 State.reset)).map (hostRead · 0x018) = some 0 := by decide +kernel

/-- V57. -/
theorem test_illegal_command : (nextState (hostWrite 0x000 0x2 State.reset)).map outcome = some (4, 2, 0) := by decide

/-- P1's first line as host accesses. -/
theorem test_script_geo :
    Script.geo 42 451234567 (-1229876543) 1500900 220 271 =
      [.write 0x020 0x2A, .write 0x024 0x1AE54B07, .write 0x028 0xB6B192C1, .write 0x02C 0x0016E6E4, .write 0x030 0xDC,
        .write 0x034 0x10F] := by decide +kernel

/-! ## Witnesses: concrete values that meet the hypotheses of each statement, clause by clause, at their boundaries -/

/-- A legal width. -/
def width3 : Width := ⟨3, by decide, by decide⟩

/-- The widest legal width. -/
def width32 : Width := ⟨32, by decide, by decide⟩

/-- Two legal fields, 35 bits together. -/
def twoFields : List BitField := [⟨width3, 7, by decide⟩, ⟨width32, 0xFFFFFFFF, by decide⟩]

theorem witness_CommandWordsDecodeExactly : (0x00000002 : Word) ∉ commandWords ∧ (0x00000041 : Word) ∈ commandWords := by
  decide

theorem witness_DecodeEncodeAgree : Instr.wf .mdec = true ∧ Instr.wf (.msgAirtrack fullReport) = true := by decide

theorem witness_StepRunsTheDecodedCommand :
    { scenarioGeo with pending := [.write 0x000 0x30, .reset] }.pending = [.write 0x000 0x30, .reset] ∧
      decode (.command 0x30) = .ok .fromgeo := by decide +kernel

theorem witness_StepRunsTheFrameInTheBuffer :
    { bufState (0x32 :: scenarioBody) with pending := [.write 0x000 0x41] }.pending = [.write 0x000 0x00000041] ∧
      (bufState (0x32 :: scenarioBody)).len.toNat ≤ 32 ∧
      decode (.frame ((List.range (bufState (0x32 :: scenarioBody)).len.toNat).map
        (bufState (0x32 :: scenarioBody)).buf.read)) = .ok (.msgAirtrack scenario) := by decide +kernel

theorem witness_StepTakesTheOtherEvents :
    State.reset.pending = [] ∧ { State.reset with pending := [.read 0x104] }.pending = [.read 0x104] ∧
      { State.reset with pending := [.write 0x044 5] }.pending = [.write 0x044 5] ∧
      { scenarioRegs with pending := [.reset] }.pending = [.reset] := by decide +kernel

theorem witness_IllegalCommandRaises : (0x00000002 : Word) ∉ commandWords ∧ (0xFFFFFFFF : Word) ∉ commandWords := by decide

theorem witness_ErrorsChangeNothingElse :
    (∃ t, exec .menc State.reset = .next t ∧ t.err ≠ 0) ∧ (∃ t, exec .menc scenarioRegs = .next t ∧ t.err = 0) :=
  ⟨⟨_, rfl, by decide +kernel⟩, ⟨_, rfl, by decide +kernel⟩⟩

/-- Two states that agree on what `PACK` reads, the fields below `NF`, and on little else. -/
theorem witness_CommandsUseOnlyTheirOperands_pack :
    Instr.pack ∈ commands ∧
      (∃ t, exec .pack { fieldState [(5, 3), (9, 4)] with nf := 1 } = .next t ∧ t.err = 0) ∧
      (∃ t, exec .pack { fieldState [(5, 3), (1, 40)] with nf := 1, len := 77 } = .next t) ∧
      SameOperands .pack { fieldState [(5, 3), (9, 4)] with nf := 1 } { fieldState [(5, 3), (1, 40)] with nf := 1, len := 77 } :=
  ⟨by decide, ⟨_, rfl, by decide +kernel⟩, ⟨_, rfl⟩, by unfold SameOperands; decide +kernel⟩

/-- Two states that agree on what `MDEC` reads, the bytes below `LEN`, and not on the byte after them. -/
theorem witness_CommandsUseOnlyTheirOperands_mdec :
    Instr.mdec ∈ commands ∧ (∃ t, exec .mdec (bufState (0x32 :: scenarioBody)) = .next t ∧ t.err = 0) ∧
      (∃ t, exec .mdec { bufState (0x32 :: scenarioBody ++ [0xEE]) with len := 16 } = .next t) ∧
      SameOperands .mdec (bufState (0x32 :: scenarioBody)) { bufState (0x32 :: scenarioBody ++ [0xEE]) with len := 16 } :=
  ⟨by decide, ⟨_, rfl, by decide +kernel⟩, ⟨_, rfl⟩, by unfold SameOperands; decide +kernel⟩

/-- A state from which every command completes: the scenario's inputs, a frame in the buffer, a field table, the kind. -/
def busyState : State :=
  { fieldState [(5, 3), (0x1FF, 9)] with
    glat := scenarioGeo.glat, glon := scenarioGeo.glon, galt := scenarioGeo.galt, gtrack := 42, kind := 0x32
    buf := Memory.ofBytes (0x32 :: scenarioBody), len := 16 }

/-- `busyState` with other contents in what no command reads: the error registers, the fields from `NF` on, the bytes from
`LEN` on. -/
def busyTwin : State :=
  { busyState with
    err := 6, einfo0 := 1, v := busyState.v.set 7 9, w := busyState.w.set 7 40
    buf := Memory.ofBytes (0x32 :: scenarioBody ++ [0xEE]) }

/-- Every command has two different states that agree on what it reads, and it completes from the first. -/
theorem witness_CommandsUseOnlyTheirOperands_all :
    busyState ≠ busyTwin ∧ ∀ i ∈ commands, SameOperands i busyState busyTwin ∧ (after i busyState (·.err)) = some 0 ∧
      (after i busyTwin (·.err)) = some 0 := by
  refine ⟨by decide +kernel, ?_⟩
  intro i hi
  fin_cases hi <;> simp only [SameOperands] <;> decide +kernel

theorem witness_EveryStepKeepsMachineInv :
    MachineInv { bufState (0x99 :: scenarioBody) with pending := [.write 0x000 0x41] } ∧
      ∃ t, step { bufState (0x99 :: scenarioBody) with pending := [.write 0x000 0x41] } = .next t ∧ t.err = 2 :=
  ⟨by decide +kernel, ⟨_, rfl, by decide +kernel⟩⟩

theorem witness_HostReadsTheRegisterMap :
    ∀ offset ∈ [0x001, 0x01C, 0x038, 0x03C, 0x060, 0x07C, 0x0C0, 0x0FC, 0x180], Unmapped offset := by decide

theorem witness_HostWriteStoresTheLowBits :
    hostAccess .latp = .readWrite ∧ hostAccess (.buf 31) = .readWrite ∧ 0x004 ∈ [0x004, 0x008, 0x00C] ∧
      Unmapped 0x180 := by decide

theorem witness_PutFieldWritesExactlyItsBits :
    7 + 32 ≤ 8 * (List.replicate 5 (0 : Byte)).length ∧ 1 ≤ 32 ∧ 32 ≤ 32 ∧ 0xFFFFFFFF < 2 ^ 32 := by decide

theorem witness_GetFieldReadsExactlyItsBits :
    8 + 32 ≤ 8 * (List.replicate 5 (0xA5 : Byte)).length ∧ 1 ≤ 32 ∧ 32 ≤ 32 ∧ 31 < 32 := by decide

theorem witness_PackOutputBits :
    twoFields[1]? = some ⟨width32, 0xFFFFFFFF, by decide⟩ ∧ 31 < width32.bits ∧
      totalBits (twoFields.map (·.width)) ≤ 35 := by decide

theorem witness_UnpackShortBufferExactly :
    8 * [(0xBF : Byte)].length < totalBits [width3, width3, width3] ∧
      totalBits [width32] ≤ 8 * [(1 : Byte), 2, 3, 4].length := by decide

theorem witness_UnpackReadsOnlyTheNeededBits :
    totalBits [width3] ≤ 8 * [(0xA0 : Byte)].length ∧ totalBits [width3] ≤ 8 * [(0xBF : Byte), 0xFF].length ∧
      ∀ k, k < totalBits [width3] → streamBit [0xA0] k = streamBit [0xBF, 0xFF] k := by decide +kernel

theorem witness_PackAndUnpackRoundTrip :
    totalBits [width3] ≤ 8 * [(0xBF : Byte)].length ∧ unpack [0xBF] [width3] = .ok [5] := by decide +kernel

theorem witness_ByteAtATimeFormsAgree :
    7 + 32 ≤ 8 * (List.replicate 5 (0x5A : Byte)).length ∧ 1 ≤ 32 ∧ 32 ≤ 32 ∧ 0x80000001 < 2 ^ 32 := by decide

theorem witness_WholeNumberFormsAgree :
    totalBits [width3, width3] ≤ 8 * [(0xBF : Byte)].length ∧ unpack [0xBF] [width3, width3] = .ok [5, 7] ∧
      [width3, width3][1]? = some width3 := by decide +kernel

/-- `PACK` at its ends: eight fields of 32 bits; `NF` = 9; width 33 at index 7; a value one too big at index 1. -/
theorem witness_PackPacksTheFieldTable :
    (WidthsLegal (fieldState (List.replicate 8 (0xFFFFFFFF, 32))) ∧
      ∀ i : Fin 8, i.val < (fieldState (List.replicate 8 (0xFFFFFFFF, 32))).nf.toNat →
        ((fieldState (List.replicate 8 (0xFFFFFFFF, 32))).v[i]).toNat <
          2 ^ ((fieldState (List.replicate 8 (0xFFFFFFFF, 32))).w[i]).toNat) ∧
    8 < (fieldState (List.replicate 9 (0, 1))).nf.toNat ∧
    ((fieldState (List.replicate 7 (0, 1) ++ [(0, 33)])).nf.toNat ≤ 8 ∧
      7 < (fieldState (List.replicate 7 (0, 1) ++ [(0, 33)])).nf.toNat ∧
      ¬ ((fieldState (List.replicate 7 (0, 1) ++ [(0, 33)])).w[(7 : Fin 8)]).toNat ≤ 32 ∧
      ∀ j : Fin 8, j < 7 → 1 ≤ ((fieldState (List.replicate 7 (0, 1) ++ [(0, 33)])).w[j]).toNat ∧
        ((fieldState (List.replicate 7 (0, 1) ++ [(0, 33)])).w[j]).toNat ≤ 32) ∧
    (WidthsLegal (fieldState [(7, 3), (8, 3)]) ∧ 1 < (fieldState [(7, 3), (8, 3)]).nf.toNat ∧
      2 ^ ((fieldState [(7, 3), (8, 3)]).w[(1 : Fin 8)]).toNat ≤ ((fieldState [(7, 3), (8, 3)]).v[(1 : Fin 8)]).toNat ∧
      ∀ j : Fin 8, j < 1 → ((fieldState [(7, 3), (8, 3)]).v[j]).toNat < 2 ^ ((fieldState [(7, 3), (8, 3)]).w[j]).toNat) := by
  decide +kernel

/-- `UNPACK` at its ends: 256 bits of 256; `NF` = 9; width 0 at index 1; `LEN` = 33; one bit too few. -/
theorem witness_UnpackReadsTheBuffer :
    (WidthsLegal { fieldState (List.replicate 8 (0, 32)) with len := 32 } ∧
      widthSum { fieldState (List.replicate 8 (0, 32)) with len := 32 } 8 ≤ 8 * 32) ∧
    8 < (fieldState (List.replicate 9 (0, 1))).nf.toNat ∧
    ((fieldState [(0, 3), (0, 0)]).nf.toNat ≤ 8 ∧ 1 < (fieldState [(0, 3), (0, 0)]).nf.toNat ∧
      ¬ 1 ≤ ((fieldState [(0, 3), (0, 0)]).w[(1 : Fin 8)]).toNat ∧
      ∀ j : Fin 8, j < 1 → 1 ≤ ((fieldState [(0, 3), (0, 0)]).w[j]).toNat ∧
        ((fieldState [(0, 3), (0, 0)]).w[j]).toNat ≤ 32) ∧
    (WidthsLegal { fieldState [(0, 3)] with len := 33 } ∧ 32 < { fieldState [(0, 3)] with len := 33 }.len.toNat) ∧
    (WidthsLegal { fieldState [(0, 8), (0, 9)] with len := 2 } ∧
      8 * 2 < widthSum { fieldState [(0, 8), (0, 9)] with len := 2 } 2) := by decide +kernel

theorem witness_UnpackAfterPackChangesNothing :
    ∃ t, exec .pack (fieldState [(5, 3), (0x1FF, 9)]) = .next t ∧ t.err = 0 := ⟨_, rfl, by decide +kernel⟩

theorem witness_QuantizersRoundToTheNearestCode :
    qLat 900000000 = .ok 524287 ∧ qLon (-1800000000) = .ok 0 ∧ qAlt 124838456 = .ok 16383 ∧
      900000000 < (900000001 : Int) ∧ (-1800000001 : Int) < -1800000000 ∧ (-1 : Int) < 0 := by decide +kernel

theorem witness_QuantizerRangeSoundness :
    (-1 : Int) ≤ 0 ∧ qLat (-1) = .ok 262143 ∧ qLat 0 = .ok 262144 ∧ qLon (-1) = .ok 262143 ∧ qLon 0 = .ok 262144 ∧
      (3809 : Int) ≤ 3810 ∧ qAlt 3809 = .ok 0 ∧ qAlt 3810 = .ok 1 := by decide +kernel

theorem witness_TiesOnlyAtTheOrigin :
    ((-900000000 : Int) ≤ 0 ∧ (0 : Int) ≤ 900000000) ∧ ((-1800000000 : Int) ≤ 1800000000) ∧
      ((0 : Int) ≤ 124838456 ∧ (124838456 : Int) ≤ 124838456) := by decide

theorem witness_SixtyFourBitDatapathSuffices :
    qLat 900000000 = .ok 524287 ∧ qLon 1800000000 = .ok 524287 ∧ qAlt 124838456 = .ok 16383 := by decide +kernel

theorem witness_QlatQuantizesOrRaises :
    -900000000 ≤ signed32 (geoState (-900000000) 0 0).glat ∧ signed32 (geoState (-900000000) 0 0).glat ≤ 900000000 ∧
      900000000 < signed32 (geoState 900000001 0 0).glat := by decide +kernel

theorem witness_QlonQuantizesOrRaises :
    -1800000000 ≤ signed32 (geoState 0 1800000000 0).glon ∧ signed32 (geoState 0 1800000000 0).glon ≤ 1800000000 ∧
      signed32 (geoState 0 (-1800000001) 0).glon < -1800000000 := by decide +kernel

theorem witness_QaltQuantizesOrRaises :
    0 ≤ signed32 (geoState 0 0 124838456).galt ∧ signed32 (geoState 0 0 124838456).galt ≤ 124838456 ∧
      signed32 (geoState 0 0 (-1)).galt < 0 ∧ 124838456 < signed32 (geoState 0 0 124838457).galt := by decide +kernel

theorem witness_FromGeoBuildsTheReport :
    (-900000000 ≤ (900000000 : Int) ∧ -1800000000 ≤ (-1800000000 : Int) ∧ 0 ≤ (0 : Int)) ∧
      900000000 < (900000001 : Int) ∧ 1800000000 < (1800000001 : Int) ∧ 124838456 < (124838457 : Int) := by decide

theorem witness_FromgeoCompletes :
    -900000000 ≤ signed32 scenarioGeo.glat ∧ signed32 scenarioGeo.glat ≤ 900000000 ∧
      -1800000000 ≤ signed32 scenarioGeo.glon ∧ signed32 scenarioGeo.glon ≤ 1800000000 ∧
      0 ≤ signed32 scenarioGeo.galt ∧ signed32 scenarioGeo.galt ≤ 124838456 := by decide +kernel

theorem witness_FromgeoRaisesTheFirstOverflow :
    900000000 < signed32 (geoState 900000001 1800000001 (-1)).glat ∧
      (signed32 (geoState 900000000 1800000001 (-1)).glat ≤ 900000000 ∧
        1800000000 < signed32 (geoState 900000000 1800000001 (-1)).glon) ∧
      (signed32 (geoState 900000000 1800000000 (-1)).glon ≤ 1800000000 ∧
        signed32 (geoState 900000000 1800000000 (-1)).galt < 0) := by decide +kernel

theorem witness_FromgeoIsTheSeparateCommands :
    ∃ s1 s2 s3 s4, exec .qlat scenarioGeo = .next s1 ∧ exec .qlon s1 = .next s2 ∧ exec .qalt s2 = .next s3 ∧
      exec .qtrk s3 = .next s4 ∧ s1.err = 0 ∧ s2.err = 0 ∧ s3.err = 0 :=
  ⟨_, _, _, _, rfl, rfl, rfl, rfl, by decide +kernel, by decide +kernel, by decide +kernel⟩

theorem witness_TrackNumberMaskingLaw :
    (∃ r, fromGeo 0xF02A 0 0 0 220 271 = .ok r) ∧ (∃ t, exec .fromgeo scenarioGeo = .next t ∧ t.err = 0) ∧
      ∃ t, exec .qtrk scenarioGeo = .next t := ⟨⟨_, rfl⟩, ⟨_, rfl, by decide +kernel⟩, ⟨_, rfl⟩⟩

theorem witness_BodyDecodeOutcomes : (scenarioBody.take 14).length ≤ 14 ∧ 15 ≤ scenarioBody.length := by decide

theorem witness_BdecDecodesTheBody :
    (15 ≤ (bufState scenarioBody).len.toNat ∧ (bufState scenarioBody).len.toNat ≤ 32 ∧
      reportAtBodyBits (BitVec.ofNat 120 (bufNumber (bufState scenarioBody).buf 0 15)) = scenario) ∧
      32 < { State.reset with len := 33 }.len.toNat ∧ (bufState (scenarioBody.take 14)).len.toNat ≤ 14 := by decide +kernel

theorem witness_BodyRoundTrip :
    15 ≤ (List.replicate 15 (0xFF : Byte)).length ∧
      bodyDecode airTrackLayout (List.replicate 15 0xFF) = .ok fullReport := by decide +kernel

theorem witness_EveryLayoutRoundTrips :
    Layout.wf [.headingCdeg, .speedMs, .parity, .altitudePacked, .trackNumber, .longitudePacked, .latitudePacked, .track] =
      true := by decide

theorem witness_BodyEncodeIsInjective :
    bodyEncode airTrackLayout scenario = bodyEncode airTrackLayout scenario := rfl

theorem witness_EnvelopeDecodeOutcomes :
    (0x33 : Byte) ≠ 0x32 ∧ (scenarioBody.take 14).length ≤ 14 ∧ 15 ≤ scenarioBody.length := by decide

theorem witness_MencEncodesTheFrame : scenarioRegs.kind = 0x32 ∧ State.reset.kind ≠ 0x32 := by decide

theorem witness_MdecDecodesTheFrame :
    ((bufState (0x32 :: scenarioBody)).buf.read 0 = 0x32 ∧ 16 ≤ (bufState (0x32 :: scenarioBody)).len.toNat ∧
      (bufState (0x32 :: scenarioBody)).len.toNat ≤ 32 ∧
      reportAtBodyBits (BitVec.ofNat 120 (bufNumber (bufState (0x32 :: scenarioBody)).buf 1 15)) = scenario) ∧
      32 < { State.reset with len := 33 }.len.toNat ∧ State.reset.len.toNat = 0 ∧
      (1 ≤ (bufState [0x33]).len.toNat ∧ (bufState [0x33]).buf.read 0 ≠ 0x32) ∧
      ((bufState (0x32 :: scenarioBody.take 14)).len.toNat = 15 ∧
        (bufState (0x32 :: scenarioBody.take 14)).buf.read 0 = 0x32) := by decide +kernel

theorem witness_FrameRoundTrip : scenarioRegs.kind = 0x32 := by decide

theorem witness_NewKindsLeaveOldKindsAlone :
    entryOfTag oneOfTwo byteEntry.tag = none ∧ codecOfKind oneOfTwo byteEntry.kind = none ∧ (0x32 : Byte) ≠ byteEntry.tag ∧
      Registered oneOfTwo true := ⟨rfl, rfl, by decide, rfl⟩

theorem witness_BodyCommandsIgnoreTheFieldTable : Instr.bdec ∈ [Instr.benc, Instr.bdec, Instr.menc, Instr.mdec] := by decide

end Sys2Proof.Tests
end

-- ==== Proofs: the commands use only their operands ====
section
/-!
PROOF. 30_encoding.md R93: every command is one value computed from the registers it reads, put into the registers it
writes. The first part says that the reading of operands depends on those registers alone; the second brings each command
into this form; the third derives the frame and the noninterference from the form, once for all commands.
-/

namespace Sys2Proof.Machine

/-! ## What the reading of operands depends on -/

/-- `buffer()` depends on `LEN` and on the bytes below it. -/
theorem readBuffer_congr {s s' : State} (h : SameBuffer s s') : readBuffer s = readBuffer s' := by
  obtain ⟨hlen, hbyte⟩ := h
  have hbytes : (List.range s.len.toNat).map s.buf.read = (List.range s.len.toNat).map s'.buf.read :=
    List.map_congr_left fun a ha => hbyte a (List.mem_range.mp ha)
  simp only [readBuffer, hbytes, ← hlen]

theorem fieldIndices_congr {s s' : State} (h : s.nf = s'.nf) : fieldIndices s = fieldIndices s' := by
  simp only [fieldIndices, h]

/-- An index below `NF` is a number below `NF`. -/
theorem val_lt_of_mem_fieldIndices {s : State} {is : List (Fin 8)} (h : fieldIndices s = .ok is) {k : Fin 8}
    (hk : k ∈ is) : k.val < s.nf.toNat := by
  obtain ⟨-, rfl⟩ := fieldIndices_ok h
  obtain ⟨j, hj, rfl⟩ := List.mem_take_iff_getElem.mp hk
  simp only [List.getElem_finRange, Fin.val_cast]
  omega

theorem readWidths_congr {s s' : State} {is : List (Fin 8)} (h : ∀ k ∈ is, s.w[k] = s'.w[k]) :
    readWidths s is = readWidths s' is := by
  induction is with
  | nil => rfl
  | cons i is ih =>
    have hi : readWidth s i = readWidth s' i := by simp only [readWidth, h i List.mem_cons_self]
    simp only [readWidths, hi, ih fun k hk => h k (List.mem_cons_of_mem i hk)]

theorem readFields_congr {s s' : State} {ws : List (Fin 8 × Width)} (h : ∀ p ∈ ws, s.v[p.1] = s'.v[p.1]) :
    readFields s ws = readFields s' ws := by
  induction ws with
  | nil => rfl
  | cons p ws ih =>
    obtain ⟨i, w⟩ := p
    have hi : readField s i w = readField s' i w := by simp only [readField, h (i, w) List.mem_cons_self]
    simp only [readFields, hi, ih fun q hq => h q (List.mem_cons_of_mem (i, w) hq)]

/-- Width operands that are read belong to the indices below `NF`. -/
theorem widthOperands_ok {s : State} {ws : List (Fin 8 × Width)} (h : widthOperands s = .ok ws) :
    fieldIndices s = .ok (ws.map Prod.fst) := by
  unfold widthOperands at h
  split at h
  · cases h
  · rename_i is his
    rw [his, (readWidths_ok h).1]

/-- There is one width for each index below `NF`. -/
theorem length_of_widthOperands {s : State} {ws : List (Fin 8 × Width)} (h : widthOperands s = .ok ws) :
    ws.length = s.nf.toNat := by
  obtain ⟨hnf, hidx⟩ := fieldIndices_ok (widthOperands_ok h)
  simpa [hnf] using congrArg List.length hidx

/-- The width operands depend on `NF` and on the widths below it. -/
theorem widthOperands_congr {s s' : State} (hnf : s.nf = s'.nf)
    (hw : ∀ k : Fin 8, k.val < s.nf.toNat → s.w[k] = s'.w[k]) : widthOperands s = widthOperands s' := by
  simp only [widthOperands, ← fieldIndices_congr hnf]
  cases his : fieldIndices s with
  | error e => rfl
  | ok is => exact readWidths_congr fun k hk => hw k (val_lt_of_mem_fieldIndices his hk)

/-- The field operands depend on `NF` and on the widths and values below it. -/
theorem fieldOperands_congr {s s' : State} (hnf : s.nf = s'.nf)
    (hvw : ∀ k : Fin 8, k.val < s.nf.toNat → s.v[k] = s'.v[k] ∧ s.w[k] = s'.w[k]) :
    fieldOperands s = fieldOperands s' := by
  simp only [fieldOperands, ← widthOperands_congr hnf fun k hk => (hvw k hk).2]
  cases hws : widthOperands s with
  | error e => rfl
  | ok ws =>
    exact readFields_congr fun p hp =>
      (hvw p.1 (val_lt_of_mem_fieldIndices (widthOperands_ok hws) (List.mem_map_of_mem hp))).1

/-- `unpack` gives one value for each width. -/
theorem length_of_unpack {b : List Byte} {ws : List Width} {vs : List Nat} (h : unpack b ws = .ok vs) :
    vs.length = ws.length := by
  unfold unpack at h
  split at h
  · cases h
  · cases h
    exact length_unpackFrom b ws 0

/-! ## The value each command computes -/

/-- What `UNPACK` computes: the values of its fields. -/
def unpackedValues (s : State) : Except CmdError (List Nat) :=
  (widthOperands s).bind fun ws => (readBuffer s).bind fun b => unpack b (ws.map Prod.snd)

/-- What `FROMGEO` computes: the report of the geodetic registers. -/
def geoReport (s : State) : Except CmdError Report :=
  fromGeo s.gtrack (signed32 s.glat) (signed32 s.glon) (signed32 s.galt) s.gspd s.ghdg

/-- What `MENC` computes: the frame of a report under a kind tag. -/
def encodedFrame (tag : Byte) (r : Report) : Except CmdError (List Byte) :=
  match entryOfTag adsRegistry tag with
  | none => .error (.unsupportedKind tag)
  | some _ => .ok (envEncode adsRegistry (.airTrack r) airTrack_registered)

/-- What `MDEC` puts into the registers: the tag and the report of a message. -/
def State.putMessage (s : State) (m : Message) : State :=
  match m with
  | ⟨.airTrack, r⟩ => s.setMessage (messageTag (.airTrack r)) r

theorem exec_pack (s : State) : exec .pack s = commit s ((fieldOperands s).map fun fs => s.setEncoded (pack fs)) := by
  simp only [exec, execPack]
  cases fieldOperands s <;> rfl

theorem exec_unpack (s : State) : exec .unpack s = commit s ((unpackedValues s).map s.setFieldValues) := by
  simp only [exec, execUnpack, unpackedValues]
  cases widthOperands s with
  | error e => rfl
  | ok ws =>
    cases readBuffer s with
    | error e => rfl
    | ok b => simp only [Except.bind]; cases unpack b (ws.map Prod.snd) <;> rfl

theorem exec_qlat (s : State) :
    exec .qlat s = commit s ((qLat (signed32 s.glat)).map fun c => { s with latp := BitVec.ofInt 19 c }) := by
  simp only [exec, execQlat]
  cases qLat (signed32 s.glat) <;> rfl

theorem exec_qlon (s : State) :
    exec .qlon s = commit s ((qLon (signed32 s.glon)).map fun c => { s with lonp := BitVec.ofInt 19 c }) := by
  simp only [exec, execQlon]
  cases qLon (signed32 s.glon) <;> rfl

theorem exec_qalt (s : State) :
    exec .qalt s = commit s ((qAlt (signed32 s.galt)).map fun c => { s with altp := BitVec.ofInt 14 c }) := by
  simp only [exec, execQalt]
  cases qAlt (signed32 s.galt) <;> rfl

theorem exec_fromgeo (s : State) : exec .fromgeo s = commit s ((geoReport s).map s.setReport) := by
  simp only [exec, execFromgeo, geoReport]
  cases fromGeo s.gtrack (signed32 s.glat) (signed32 s.glon) (signed32 s.galt) s.gspd s.ghdg <;> rfl

theorem exec_bdec (s : State) :
    exec .bdec s = commit s (((readBuffer s).bind (bodyDecode airTrackLayout)).map s.setReport) := by
  simp only [exec, execBdec]
  cases readBuffer s with
  | error e => rfl
  | ok b => simp only [Except.bind]; cases bodyDecode airTrackLayout b <;> rfl

theorem exec_menc (s : State) : exec .menc s = commit s ((encodedFrame s.kind (reportRegs s)).map s.setEncoded) := by
  simp only [exec, execMenc, encodedFrame]
  cases entryOfTag adsRegistry s.kind <;> rfl

theorem exec_mdec (s : State) :
    exec .mdec s = commit s (((readBuffer s).bind (envDecode adsRegistry)).map s.putMessage) := by
  simp only [exec, execMdec]
  cases readBuffer s with
  | error e => rfl
  | ok b => simp only [Except.bind]; cases envDecode adsRegistry b <;> rfl

/-- `UNPACK` computes one value for each index below `NF`. -/
theorem length_of_unpackedValues {s : State} {vs : List Nat} (h : unpackedValues s = .ok vs) :
    vs.length = s.nf.toNat := by
  unfold unpackedValues at h
  cases hws : widthOperands s with
  | error e => simp [hws, Except.bind] at h
  | ok ws =>
    cases hb : readBuffer s with
    | error e => simp [hws, hb, Except.bind] at h
    | ok b =>
      have hvs : unpack b (ws.map Prod.snd) = .ok vs := by simpa [hws, hb, Except.bind] using h
      rw [length_of_unpack hvs, List.length_map, length_of_widthOperands hws]

theorem unpackedValues_congr {s s' : State} (h : SameOperands .unpack s s') : unpackedValues s = unpackedValues s' := by
  obtain ⟨hnf, hw, hbuf⟩ := h
  simp only [unpackedValues, widthOperands_congr hnf hw, readBuffer_congr hbuf]

theorem geoReport_congr {s s' : State} (h : SameOperands .fromgeo s s') : geoReport s = geoReport s' := by
  obtain ⟨hgtrack, hglat, hglon, hgalt, hgspd, hghdg⟩ := h
  simp only [geoReport, hgtrack, hglat, hglon, hgalt, hgspd, hghdg]

/-! ## Frame and noninterference of a command that puts one computed value -/

/-- The claim of 30_encoding.md R93 for one instruction: it writes no register outside its list, and its outcome depends
on the registers it reads alone. -/
def UsesOnlyItsOperands (i : Instr) : Prop :=
  ∀ s s' t t' : State, exec i s = .next t → exec i s' = .next t' →
    WritesOnlyItsRegisters i s t ∧
    (SameOperands i s s' →
      t.err = t'.err ∧ t.einfo0 = t'.einfo0 ∧ t.einfo1 = t'.einfo1 ∧ (t.err = 0 → SameResults i s.nf.toNat t t'))

/-- An error writes none of the registers an instruction may write (60_exceptions.md R257). -/
theorem raise_writesOnlyItsRegisters (i : Instr) (s : State) (e : CmdError) :
    WritesOnlyItsRegisters i s (s.raise e) := by
  cases i with
  | unpack => exact ⟨rfl, fun _ _ => rfl⟩
  | clr => trivial
  | _ => rfl

/-- An instruction whose value depends on its operands alone, and which puts that value into its own registers, uses only
its operands: equal operands give the same error or the same value. -/
theorem usesOnlyItsOperands_of_commit {α : Type} {i : Instr} {value : State → Except CmdError α}
    {put : State → α → State} (hexec : ∀ s, exec i s = commit s ((value s).map (put s)))
    (hreads : ∀ s s', SameOperands i s s' → value s = value s')
    (hwrites : ∀ s x, value s = .ok x → WritesOnlyItsRegisters i s (put s x).complete)
    (hresults : ∀ s s' x, value s = .ok x →
      SameResults i s.nf.toNat (put s x).complete (put s' x).complete) :
    UsesOnlyItsOperands i := by
  intro s s' t t' h h'
  rw [hexec] at h h'
  cases hv : value s with
  | error e =>
    simp only [hv, Except.map, commit_error, Host.Outcome.next.injEq] at h
    subst h
    refine ⟨raise_writesOnlyItsRegisters i s e, fun hsame => ?_⟩
    simp only [← hreads s s' hsame, hv, Except.map, commit_error, Host.Outcome.next.injEq] at h'
    subst h'
    exact ⟨rfl, rfl, rfl, fun h0 => absurd h0 (errorCode_ne_zero e)⟩
  | ok x =>
    simp only [hv, Except.map, commit_ok, Host.Outcome.next.injEq] at h
    subst h
    refine ⟨hwrites s x hv, fun hsame => ?_⟩
    simp only [← hreads s s' hsame, hv, Except.map, commit_ok, Host.Outcome.next.injEq] at h'
    subst h'
    exact ⟨rfl, rfl, rfl, fun _ => hresults s s' x hv⟩

/-! ## The thirteen commands -/

theorem nop_usesOnlyItsOperands : UsesOnlyItsOperands .nop :=
  usesOnlyItsOperands_of_commit (value := fun _ => .ok ()) (put := fun s _ => s) (fun _ => rfl)
    (fun _ _ _ => rfl) (fun _ _ _ => rfl) (fun _ _ _ _ => trivial)

theorem clr_usesOnlyItsOperands : UsesOnlyItsOperands .clr :=
  usesOnlyItsOperands_of_commit (value := fun _ => .ok ()) (put := fun s _ => s.toReset) (fun _ => rfl)
    (fun _ _ _ => rfl) (fun _ _ _ => trivial) (fun _ _ _ _ => rfl)

theorem pack_usesOnlyItsOperands : UsesOnlyItsOperands .pack :=
  usesOnlyItsOperands_of_commit exec_pack
    (fun _ _ ⟨hnf, hvw⟩ => fieldOperands_congr hnf hvw) (fun _ _ _ => rfl) (fun _ _ _ _ => ⟨rfl, rfl⟩)

/-- A value register below the number of unpacked values holds its value, whatever it held before; the others stay. -/
theorem unpack_usesOnlyItsOperands : UsesOnlyItsOperands .unpack := by
  refine usesOnlyItsOperands_of_commit exec_unpack (fun _ _ => unpackedValues_congr) ?writes ?results
  case writes =>
    refine fun s vs hvs => ⟨rfl, fun k hk => ?_⟩
    have hpast : vs[k.val]? = none := List.getElem?_eq_none (by rw [length_of_unpackedValues hvs]; exact hk)
    rw [State.complete_v, State.setFieldValues_v_get, hpast]
    rfl
  case results =>
    intro s s' vs hvs k hk
    have hlt : k.val < vs.length := by rw [length_of_unpackedValues hvs]; exact hk
    simp only [State.complete_v, State.setFieldValues_v_get, List.getElem?_eq_getElem hlt, Option.elim_some]

theorem qlat_usesOnlyItsOperands : UsesOnlyItsOperands .qlat :=
  usesOnlyItsOperands_of_commit exec_qlat
    (fun _ _ hglat => congrArg (fun x => qLat (signed32 x)) hglat) (fun _ _ _ => rfl) (fun _ _ _ _ => rfl)

theorem qlon_usesOnlyItsOperands : UsesOnlyItsOperands .qlon :=
  usesOnlyItsOperands_of_commit exec_qlon
    (fun _ _ hglon => congrArg (fun x => qLon (signed32 x)) hglon) (fun _ _ _ => rfl) (fun _ _ _ _ => rfl)

theorem qalt_usesOnlyItsOperands : UsesOnlyItsOperands .qalt :=
  usesOnlyItsOperands_of_commit exec_qalt
    (fun _ _ hgalt => congrArg (fun x => qAlt (signed32 x)) hgalt) (fun _ _ _ => rfl) (fun _ _ _ _ => rfl)

theorem qtrk_usesOnlyItsOperands : UsesOnlyItsOperands .qtrk :=
  usesOnlyItsOperands_of_commit (value := fun s => .ok s.gtrack)
    (put := fun s g => { s with track := g, trkn := qTrk g }) (fun _ => rfl)
    (fun _ _ hgtrack => congrArg Except.ok hgtrack) (fun _ _ _ => rfl) (fun _ _ _ _ => ⟨rfl, rfl⟩)

theorem fromgeo_usesOnlyItsOperands : UsesOnlyItsOperands .fromgeo :=
  usesOnlyItsOperands_of_commit exec_fromgeo
    (fun _ _ => geoReport_congr) (fun _ _ _ => rfl) (fun _ _ _ _ => rfl)

theorem benc_usesOnlyItsOperands : UsesOnlyItsOperands .benc :=
  usesOnlyItsOperands_of_commit (value := fun s => .ok (bodyEncode airTrackLayout (reportRegs s)))
    (put := State.setEncoded) (fun _ => rfl)
    (fun _ _ hregs => congrArg (fun r => Except.ok (bodyEncode airTrackLayout r)) hregs) (fun _ _ _ => rfl)
    (fun _ _ _ _ => ⟨rfl, rfl⟩)

theorem bdec_usesOnlyItsOperands : UsesOnlyItsOperands .bdec :=
  usesOnlyItsOperands_of_commit exec_bdec
    (fun _ _ hbuf => congrArg (·.bind (bodyDecode airTrackLayout)) (readBuffer_congr hbuf)) (fun _ _ _ => rfl)
    (fun _ _ _ _ => rfl)

theorem menc_usesOnlyItsOperands : UsesOnlyItsOperands .menc :=
  usesOnlyItsOperands_of_commit exec_menc
    (fun _ _ ⟨hkind, hregs⟩ => congrArg₂ encodedFrame hkind hregs) (fun _ _ _ => rfl) (fun _ _ _ _ => ⟨rfl, rfl⟩)

theorem mdec_usesOnlyItsOperands : UsesOnlyItsOperands .mdec :=
  usesOnlyItsOperands_of_commit exec_mdec
    (fun _ _ hbuf => congrArg (·.bind (envDecode adsRegistry)) (readBuffer_congr hbuf))
    (fun _ ⟨.airTrack, _⟩ _ => rfl) (fun _ _ ⟨.airTrack, _⟩ _ => ⟨rfl, rfl⟩)

/-- Settles O15: each of the thirteen commands puts one value, computed from its operands, into its own registers. -/
theorem commandsUseOnlyTheirOperands : Obligations.CommandsUseOnlyTheirOperands := by
  intro i hi
  change UsesOnlyItsOperands i
  cases i with
  | nop => exact nop_usesOnlyItsOperands
  | clr => exact clr_usesOnlyItsOperands
  | pack => exact pack_usesOnlyItsOperands
  | unpack => exact unpack_usesOnlyItsOperands
  | qlat => exact qlat_usesOnlyItsOperands
  | qlon => exact qlon_usesOnlyItsOperands
  | qalt => exact qalt_usesOnlyItsOperands
  | qtrk => exact qtrk_usesOnlyItsOperands
  | fromgeo => exact fromgeo_usesOnlyItsOperands
  | benc => exact benc_usesOnlyItsOperands
  | bdec => exact bdec_usesOnlyItsOperands
  | menc => exact menc_usesOnlyItsOperands
  | mdec => exact mdec_usesOnlyItsOperands
  | msgAirtrack r => simp [commands] at hi

end Sys2Proof.Machine
end

-- ==== Proofs: one field in the bit stream ====
section
/-!
PROOF. 40_bitpacker.md R121 and R127: the stream bits that `put_field` writes and `get_field` reads.
-/

namespace Sys2Proof.Machine

/-- `put_field` writes the bits of the value, most significant first, and no other stream bit. -/
theorem streamBit_putField (b : List Byte) (c v : Nat) {w : Nat} (h : c + w ≤ 8 * b.length) (k : Nat) :
    streamBit (putField b c v w) k =
      if c ≤ k ∧ k < c + w then v.testBit (w - 1 - (k - c)) else streamBit b k := by
  induction w generalizing v with
  | zero => rw [putField_zero, if_neg (by omega)]
  | succ w ih =>
    rw [putField_succ, streamBit_setStreamBit _ _ (by rw [length_putField]; omega), ih _ (by omega)]
    rcases Nat.lt_trichotomy k (c + w) with hk | rfl | hk
    · rw [if_neg (by omega), ← Nat.testBit_succ]
      by_cases hc : c ≤ k
      · rw [if_pos (by omega), if_pos (by omega)]
        congr 1
        omega
      · rw [if_neg (by omega), if_neg (by omega)]
    · rw [if_pos rfl, if_pos (by omega)]
      congr 1
      omega
    · rw [if_neg (by omega), if_neg (by omega), if_neg (by omega)]

theorem getField_lt (b : List Byte) (c w : Nat) : getField b c w < 2 ^ w := by
  induction w with
  | zero => simp
  | succ w ih =>
    have hbit := Bool.toNat_le (streamBit b (c + w))
    rw [getField_succ, Nat.pow_succ]
    omega

/-- The bits of a field that is read, counted from its least significant bit. -/
theorem testBit_getField (b : List Byte) (c w j : Nat) :
    (getField b c w).testBit j = (decide (j < w) && streamBit b (c + (w - 1 - j))) := by
  induction w generalizing j with
  | zero => simp
  | succ w ih =>
    have hbit : (streamBit b (c + w)).toNat < 2 ^ 1 := Bool.toNat_lt _
    rw [getField_succ, ← Nat.pow_one 2, Nat.testBit_two_pow_mul_add _ hbit]
    cases j with
    | zero => cases h : streamBit b (c + w) <;> simp [h]
    | succ j =>
      rw [if_neg (by omega), Nat.add_sub_cancel, ih, show w + 1 - 1 - (j + 1) = w - 1 - j by omega]
      simp

/-- The bits of a field that is read, most significant first. -/
theorem testBit_getField_msb (b : List Byte) (c : Nat) {w t : Nat} (ht : t < w) :
    (getField b c w).testBit (w - 1 - t) = streamBit b (c + t) := by
  rw [testBit_getField, show w - 1 - (w - 1 - t) = t by omega, decide_eq_true (by omega), Bool.true_and]

/-- A field that is read is the one number with the field's bits. -/
theorem getField_eq {b : List Byte} {c w v : Nat} (hv : v < 2 ^ w)
    (h : ∀ t, t < w → streamBit b (c + t) = v.testBit (w - 1 - t)) : getField b c w = v := by
  refine Nat.eq_of_testBit_eq fun j => ?_
  rw [testBit_getField]
  by_cases hj : j < w
  · rw [h _ (by omega), show w - 1 - (w - 1 - j) = j by omega]
    simp [hj]
  · have hpow : 2 ^ w ≤ 2 ^ j := Nat.pow_le_pow_right (by omega) (by omega)
    simp [hj, Nat.testBit_lt_two_pow (Nat.lt_of_lt_of_le hv hpow)]

/-- Reading `w + w'` bits is reading `w` bits and then the `w'` bits after them. -/
theorem getField_add (b : List Byte) (c w w' : Nat) :
    getField b c (w + w') = getField b c w * 2 ^ w' + getField b (c + w) w' := by
  induction w' with
  | zero => simp
  | succ w' ih =>
    rw [← Nat.add_assoc, getField_succ, ih, getField_succ, Nat.pow_succ, Nat.add_assoc c]
    ring

/-- Settles O20, by induction on the width: one bit wider writes the last bit after the others. -/
theorem putFieldWritesExactlyItsBits : Obligations.PutFieldWritesExactlyItsBits :=
  fun b c v w h _ _ _ => ⟨length_putField b c v w, streamBit_putField b c v h⟩

/-- Settles O21, by induction on the width: one bit wider doubles the number and adds the last bit. -/
theorem getFieldReadsExactlyItsBits : Obligations.GetFieldReadsExactlyItsBits :=
  fun b c w _ _ _ => ⟨getField_lt b c w, fun _ => testBit_getField_msb b c⟩

end Sys2Proof.Machine
end

-- ==== Proofs: the packer on field lists ====
section
/-!
PROOF. 40_bitpacker.md R120 to R132 for lists of fields. The one idea: `pack` writes its whole field list as if it were
one field, whose value is the concatenation of the fields and whose width is the sum of their widths; and `unpack` reads
the fields of which the one field of that width is the concatenation.
-/

namespace Sys2Proof.Machine

/-! ## The concatenation of fields -/

theorem concatFields_lt (fs : List BitField) : concatFields fs < 2 ^ totalBits (fs.map (·.width)) := by
  induction fs with
  | nil => simp [concatFields]
  | cons f fs ih =>
    have hv : (f.value + 1) * 2 ^ totalBits (fs.map (·.width)) ≤ 2 ^ f.width.bits * 2 ^ totalBits (fs.map (·.width)) :=
      Nat.mul_le_mul_right _ f.fits
    rw [List.map_cons, totalBits_cons, Nat.pow_add, concatFields]
    linarith

/-- A bit of a concatenation: of the first field above the others' total, of the others below it. -/
theorem testBit_concatFields_cons (f : BitField) (fs : List BitField) (j : Nat) :
    (concatFields (f :: fs)).testBit j =
      if j < totalBits (fs.map (·.width)) then (concatFields fs).testBit j
      else f.value.testBit (j - totalBits (fs.map (·.width))) := by
  rw [concatFields, Nat.mul_comm, Nat.testBit_two_pow_mul_add _ (concatFields_lt fs)]

/-- A field ends before the total of all widths. -/
theorem totalBits_take_le {ws : List Width} {i : Nat} {w : Width} (h : ws[i]? = some w) :
    totalBits (ws.take i) + w.bits ≤ totalBits ws := by
  obtain ⟨hi, rfl⟩ := List.getElem?_eq_some_iff.mp h
  conv_rhs => rw [← List.take_append_drop i ws, List.drop_eq_getElem_cons hi, totalBits_append, totalBits_cons]
  omega

theorem totalBits_take_fields_le {fs : List BitField} {i : Nat} {f : BitField} (h : fs[i]? = some f) :
    totalBits ((fs.take i).map (·.width)) + f.width.bits ≤ totalBits (fs.map (·.width)) := by
  rw [List.map_take]
  exact totalBits_take_le (by simp [h])

/-- Field `i` of a concatenation stands after the fields before it. -/
theorem testBit_concatFields {fs : List BitField} {i : Nat} {f : BitField} (h : fs[i]? = some f) {t : Nat}
    (ht : t < f.width.bits) :
    (concatFields fs).testBit
        (totalBits (fs.map (·.width)) - 1 - (totalBits ((fs.take i).map (·.width)) + t)) =
      f.value.testBit (f.width.bits - 1 - t) := by
  induction fs generalizing i with
  | nil => simp at h
  | cons g fs ih =>
    rw [testBit_concatFields_cons]
    cases i with
    | zero =>
      obtain rfl : g = f := by simpa using h
      simp only [List.map_cons, totalBits_cons, List.take_zero, List.map_nil, totalBits_nil]
      rw [if_neg (by omega)]
      congr 1
      omega
    | succ i =>
      have hi : fs[i]? = some f := by simpa using h
      have hle := totalBits_take_fields_le hi
      rw [← ih hi]
      simp only [List.map_cons, totalBits_cons, List.take_succ_cons]
      rw [if_pos (by omega)]
      congr 1
      omega

/-! ## `pack` -/

/-- The loop of `pack` writes the concatenation of its fields as one field. -/
theorem streamBit_packFrom (fs : List BitField) (b : List Byte) (cur : Nat)
    (h : cur + totalBits (fs.map (·.width)) ≤ 8 * b.length) (k : Nat) :
    streamBit (packFrom fs b cur) k =
      if cur ≤ k ∧ k < cur + totalBits (fs.map (·.width)) then
        (concatFields fs).testBit (totalBits (fs.map (·.width)) - 1 - (k - cur))
      else streamBit b k := by
  induction fs generalizing b cur with
  | nil => simp [packFrom]
  | cons f fs ih =>
    rw [List.map_cons, totalBits_cons] at h ⊢
    rw [packFrom, ih _ _ (by rw [length_putField]; omega), streamBit_putField _ _ _ (by omega),
      testBit_concatFields_cons]
    by_cases hrest : cur + f.width.bits ≤ k ∧ k < cur + f.width.bits + totalBits (fs.map (·.width))
    · rw [if_pos hrest, if_pos (by omega), if_pos (by omega)]
      congr 1
      omega
    · rw [if_neg hrest]
      by_cases hfirst : cur ≤ k ∧ k < cur + f.width.bits
      · rw [if_pos hfirst, if_pos (by omega), if_neg (by omega)]
        congr 1
        omega
      · rw [if_neg hfirst, if_neg (by omega)]

@[simp] theorem length_pack (fs : List BitField) : (pack fs).length = bytesFor (totalBits (fs.map (·.width))) := by
  rw [pack, length_packFrom, List.length_replicate]

/-- The output of `pack` has room for its fields. -/
theorem totalBits_le_length_pack (fs : List BitField) : totalBits (fs.map (·.width)) ≤ 8 * (pack fs).length := by
  rw [length_pack]
  exact (bytesFor_spec _).1

/-- The output of `pack` is the concatenation of its fields and then zeros. -/
theorem streamBit_pack (fs : List BitField) (k : Nat) :
    streamBit (pack fs) k =
      if k < totalBits (fs.map (·.width)) then (concatFields fs).testBit (totalBits (fs.map (·.width)) - 1 - k)
      else false := by
  obtain ⟨hroom, -⟩ := bytesFor_spec (totalBits (fs.map (·.width)))
  rw [pack, streamBit_packFrom _ _ _ (by rw [List.length_replicate]; omega)]
  simp

/-- In the output of `pack` field `i` stands at the stream bits after the fields before it. -/
theorem streamBit_pack_field {fs : List BitField} {i : Nat} {f : BitField} (h : fs[i]? = some f) {t : Nat}
    (ht : t < f.width.bits) :
    streamBit (pack fs) (totalBits ((fs.take i).map (·.width)) + t) = f.value.testBit (f.width.bits - 1 - t) := by
  have hle := totalBits_take_fields_le h
  rw [streamBit_pack, if_pos (by omega), testBit_concatFields h ht]

/-- Settles O22: the concatenation has field `i` at its place, and the bytes `pack` starts from are zeros. -/
theorem packOutputBits : Obligations.PackOutputBits := by
  refine fun fields => ⟨length_pack fields, fun i f h t => streamBit_pack_field h, fun k hk => ?_⟩
  rw [streamBit_pack, if_neg (by omega)]

/-! ## `unpack` -/

/-- Value `i` that is unpacked is the field after the widths before it. -/
theorem getElem?_unpackFrom (b : List Byte) (ws : List Width) (cur i : Nat) :
    (unpackFrom b ws cur)[i]? = ws[i]?.map fun w => getField b (cur + totalBits (ws.take i)) w.bits := by
  induction ws generalizing cur i with
  | nil => simp [unpackFrom]
  | cons w ws ih =>
    cases i with
    | zero => simp [unpackFrom]
    | succ i => simp [unpackFrom, ih, Nat.add_assoc]

theorem unpack_of_short {b : List Byte} {ws : List Width} (h : 8 * b.length < totalBits ws) :
    unpack b ws = .error (.shortBuffer (totalBits ws) (8 * b.length)) := if_pos h

theorem unpack_of_enough {b : List Byte} {ws : List Width} (h : totalBits ws ≤ 8 * b.length) :
    unpack b ws = .ok (unpackFrom b ws 0) := if_neg (by omega)

/-- Settles O23: the one test `unpack` makes. -/
theorem unpackShortBufferExactly : Obligations.UnpackShortBufferExactly :=
  fun b ws => ⟨unpack_of_short, fun h => ⟨_, unpack_of_enough h, length_unpackFrom b ws 0⟩⟩

theorem getField_congr {b b' : List Byte} {c w : Nat} (h : ∀ k, k < c + w → streamBit b k = streamBit b' k) :
    getField b c w = getField b' c w := by
  refine getField_eq (getField_lt b' c w) fun t ht => ?_
  rw [h _ (by omega), testBit_getField_msb b' c ht]

/-- Settles O24: every field that is read ends before the sum of the widths. -/
theorem unpackReadsOnlyTheNeededBits : Obligations.UnpackReadsOnlyTheNeededBits := by
  intro b b' ws hb hb' hbits
  rw [unpack_of_enough hb, unpack_of_enough hb']
  congr 1
  refine List.ext_getElem? fun i => ?_
  rw [getElem?_unpackFrom, getElem?_unpackFrom]
  cases hw : ws[i]? with
  | none => rfl
  | some w =>
    have hle := totalBits_take_le hw
    exact congrArg some (getField_congr fun k hk => hbits k (by omega))

/-! ## The round trips -/

/-- The values in the output of `pack`, whatever bytes follow it. -/
theorem unpackFrom_pack (fs : List BitField) (x : List Byte) :
    unpackFrom (pack fs ++ x) (fs.map (·.width)) 0 = fs.map (·.value) := by
  refine List.ext_getElem? fun i => ?_
  rw [getElem?_unpackFrom]
  cases hf : fs[i]? with
  | none => simp [hf]
  | some f =>
    have hle := totalBits_take_fields_le hf
    have hroom := totalBits_le_length_pack fs
    have hfield : getField (pack fs ++ x) (totalBits ((fs.take i).map (·.width))) f.width.bits = f.value := by
      refine getField_eq f.fits fun t ht => ?_
      rw [streamBit_append_left _ _ (by omega), streamBit_pack_field hf ht]
    rw [List.getElem?_map, List.getElem?_map, hf, ← List.map_take, Nat.zero_add]
    exact congrArg some hfield

/-- The fields that `unpack` reads, from the bit cursor `cur`: its values with their widths. -/
def unpackedFields (b : List Byte) : List Width → Nat → List BitField
  | [], _ => []
  | w :: ws, cur => ⟨w, getField b cur w.bits, getField_lt b cur w.bits⟩ :: unpackedFields b ws (cur + w.bits)

@[simp] theorem map_width_unpackedFields (b : List Byte) (ws : List Width) (cur : Nat) :
    (unpackedFields b ws cur).map (·.width) = ws := by
  induction ws generalizing cur with
  | nil => rfl
  | cons w ws ih => rw [unpackedFields, List.map_cons, ih]

theorem map_value_unpackedFields (b : List Byte) (ws : List Width) (cur : Nat) :
    (unpackedFields b ws cur).map (·.value) = unpackFrom b ws cur := by
  induction ws generalizing cur with
  | nil => rfl
  | cons w ws ih => rw [unpackedFields, List.map_cons, ih, unpackFrom]

/-- The fields that are read, concatenated, are the one field of their total width. -/
theorem concatFields_unpackedFields (b : List Byte) (ws : List Width) (cur : Nat) :
    concatFields (unpackedFields b ws cur) = getField b cur (totalBits ws) := by
  induction ws generalizing cur with
  | nil => rfl
  | cons w ws ih => rw [unpackedFields, concatFields, ih, map_width_unpackedFields, totalBits_cons, getField_add]

/-- Packing the fields that were read copies the bits that were read, and no others. -/
theorem streamBit_pack_unpackedFields (b : List Byte) (ws : List Width) (k : Nat) :
    streamBit (pack (unpackedFields b ws 0)) k = (decide (k < totalBits ws) && streamBit b k) := by
  rw [streamBit_pack, map_width_unpackedFields, concatFields_unpackedFields, testBit_getField]
  by_cases hk : k < totalBits ws
  · rw [if_pos hk, show 0 + (totalBits ws - 1 - (totalBits ws - 1 - k)) = k by omega, decide_eq_true hk,
      decide_eq_true (by omega)]
  · simp [hk]

/-- Settles O25: every field is read back at its place; and the fields that were read, concatenated, are one field of the
bits that were read, which `pack` writes back. -/
theorem packAndUnpackRoundTrip : Obligations.PackAndUnpackRoundTrip := by
  constructor
  · intro fields x
    have hroom := totalBits_le_length_pack fields
    rw [unpack_of_enough (by rw [List.length_append]; omega), unpackFrom_pack]
  · intro b ws vs henough hvs
    rw [unpack_of_enough henough] at hvs
    cases hvs
    refine ⟨unpackedFields b ws 0, map_width_unpackedFields b ws 0, map_value_unpackedFields b ws 0, ?_,
      streamBit_pack_unpackedFields b ws⟩
    rw [length_pack, map_width_unpackedFields, bytesFor]

/-! ## The whole-number forms -/

@[simp] theorem length_bigEndianBytes (n x : Nat) : (bigEndianBytes n x).length = n := by simp [bigEndianBytes]

theorem streamBit_bigEndianBytes {n k : Nat} (x : Nat) (h : k < 8 * n) :
    streamBit (bigEndianBytes n x) k = x.testBit (8 * n - 1 - k) := by
  have hbyte : k / 8 < n := by omega
  have hplace : 8 * (n - 1 - k / 8) + (7 - k % 8) = 8 * n - 1 - k := by omega
  have hpos : 7 - k % 8 < 8 := by omega
  have hget : (bigEndianBytes n x).getD (k / 8) 0 = BitVec.ofNat 8 (x >>> (8 * (n - 1 - k / 8))) := by
    simp [bigEndianBytes, hbyte]
  rw [streamBit, hget, BitVec.getLsbD_ofNat, Nat.testBit_shiftRight, hplace, decide_eq_true hpos, Bool.true_and]

theorem bigEndianNumber_concat (b : List Byte) (x : Byte) :
    bigEndianNumber (b ++ [x]) = 256 * bigEndianNumber b + x.toNat := by
  simp [bigEndianNumber]

/-- Stream bit `k` of a byte sequence is a bit of its number, counted from the most significant one. -/
theorem testBit_bigEndianNumber (b : List Byte) {k : Nat} (h : k < 8 * b.length) :
    (bigEndianNumber b).testBit (8 * b.length - 1 - k) = streamBit b k := by
  induction b using List.reverseRecOn with
  | nil => simp at h
  | append_singleton b x ih =>
    rw [List.length_append, List.length_singleton] at h ⊢
    rw [bigEndianNumber_concat, show 256 = 2 ^ 8 by rfl, Nat.testBit_two_pow_mul_add _ x.isLt]
    by_cases hk : k < 8 * b.length
    · rw [if_neg (by omega), streamBit_append_left _ _ hk, ← ih hk]
      congr 1
      omega
    · have hbyte : k / 8 = b.length := by omega
      have hpos : 8 * (b.length + 1) - 1 - k = 7 - k % 8 := by omega
      rw [if_pos (by omega), BitVec.testBit_toNat, hpos]
      simp [streamBit, hbyte]

/-- A field is a slice of the number of the byte sequence (40_bitpacker.md R132). -/
theorem getField_eq_slice {b : List Byte} {c w : Nat} (h : c + w ≤ 8 * b.length) :
    getField b c w = (bigEndianNumber b >>> (8 * b.length - c - w)) % 2 ^ w := by
  refine getField_eq (Nat.mod_lt _ (Nat.two_pow_pos w)) fun t ht => ?_
  rw [← testBit_bigEndianNumber b (by omega), Nat.testBit_mod_two_pow, Nat.testBit_shiftRight, decide_eq_true (by omega),
    Bool.true_and]
  congr 1
  omega

theorem pack_eq_packNumber (fs : List BitField) : pack fs = packNumber fs := by
  obtain ⟨hroom, -⟩ := bytesFor_spec (totalBits (fs.map (·.width)))
  refine bytes_ext (by simp [packNumber]) fun k => ?_
  by_cases hk : k < 8 * bytesFor (totalBits (fs.map (·.width)))
  · rw [packNumber, streamBit_bigEndianBytes _ hk, Nat.testBit_mul_two_pow, streamBit_pack]
    by_cases hfield : k < totalBits (fs.map (·.width))
    · rw [if_pos hfield, decide_eq_true (by omega), Bool.true_and]
      congr 1
      omega
    · rw [if_neg hfield, decide_eq_false (by omega), Bool.false_and]
  · rw [streamBit_past _ (by rw [length_pack]; omega),
      streamBit_past _ (by rw [packNumber, length_bigEndianBytes]; omega)]

/-- An unpacked value is its slice of the buffer, read as one number. -/
theorem getElem?_unpackFrom_eq_slice {b : List Byte} {ws : List Width} (henough : totalBits ws ≤ 8 * b.length) {i : Nat}
    {w : Width} (hw : ws[i]? = some w) :
    (unpackFrom b ws 0)[i]? =
      some ((bigEndianNumber b >>> (8 * b.length - totalBits (ws.take i) - w.bits)) % 2 ^ w.bits) := by
  have hle := totalBits_take_le hw
  rw [getElem?_unpackFrom, hw, Option.map_some, Nat.zero_add, getField_eq_slice (by omega)]

/-- Settles O27: `pack` and its whole-number form have the same stream bits, and a field is a slice of the number. -/
theorem wholeNumberFormsAgree : Obligations.WholeNumberFormsAgree := by
  refine ⟨pack_eq_packNumber, fun b ws vs henough hvs => ?_⟩
  rw [unpack_of_enough henough] at hvs
  cases hvs
  exact ⟨length_unpackFrom b ws 0, fun i w hw => getElem?_unpackFrom_eq_slice henough hw⟩

end Sys2Proof.Machine
end

-- ==== Proofs: PACK and UNPACK on the registers ====
section
/-!
PROOF. 40_bitpacker.md R128 and R129: the commands read their operands with the checks in their order, and then are `pack`
and `unpack`. The first part says what the checked operands are, and which error the first defect gives; the other two
settle a command each.
-/

namespace Sys2Proof.Machine

/-! ## The indices below `NF` -/

theorem mem_take_finRange {k : Fin 8} {n : Nat} : k ∈ (List.finRange 8).take n ↔ k.val < n := by
  rw [List.mem_take_iff_getElem]
  constructor
  · rintro ⟨j, hj, rfl⟩
    simp only [List.getElem_finRange, Fin.val_cast]
    omega
  · intro hk
    exact ⟨k.val, by rw [List.length_finRange]; omega, by simp⟩

/-- The checks run through the indices in rising order, so the defect they meet first is the one with no defect at a
smaller index. -/
theorem eq_of_first_defect {Ok : Fin 8 → Prop} {n : Nat} {pre post : List (Fin 8)} {i j : Fin 8}
    (hsplit : (List.finRange 8).take n = pre ++ j :: post) (hpre : ∀ k ∈ pre, Ok k) (hj : ¬ Ok j)
    (hi : i.val < n) (hbad : ¬ Ok i) (hfirst : ∀ k, k < i → Ok k) : j = i := by
  rcases lt_trichotomy j i with hlt | heq | hgt
  · exact absurd (hfirst j hlt) hj
  · exact heq
  · have hrise : (pre ++ j :: post).Pairwise (· < ·) := hsplit ▸ (List.pairwise_lt_finRange 8).take
    obtain ⟨-, htail, -⟩ := List.pairwise_append.mp hrise
    have hmem : i ∈ pre ++ j :: post := hsplit ▸ mem_take_finRange.mpr hi
    rcases List.mem_append.mp hmem with hin | hin
    · exact absurd (hpre i hin) hbad
    rcases List.mem_cons.mp hin with rfl | hin
    · rfl
    · exact absurd (List.rel_of_pairwise_cons htail hin) (lt_asymm hgt)

/-! ## The width operands -/

theorem widthOperands_of_nf_le {s : State} (h : s.nf.toNat ≤ 8) :
    widthOperands s = readWidths s ((List.finRange 8).take s.nf.toNat) := by
  simp only [widthOperands, fieldIndices, Config.nFields, if_pos h]

theorem widthOperands_of_nf_gt {s : State} (h : 8 < s.nf.toNat) : widthOperands s = .error (.badOperand (.nf s.nf)) := by
  simp only [widthOperands, fieldIndices, Config.nFields, if_neg (Nat.not_le.mpr h)]

theorem widthOperands_of_legal {s : State} (h : WidthsLegal s) : ∃ ws, widthOperands s = .ok ws := by
  obtain ⟨hnf, hlegal⟩ := h
  rw [widthOperands_of_nf_le hnf]
  exact readWidths_total s _ fun i hi => hlegal i (mem_take_finRange.mp hi)

theorem bits_of_widthOperands {s : State} {ws : List (Fin 8 × Width)} (h : widthOperands s = .ok ws) :
    ∀ p ∈ ws, p.2.bits = (s.w[p.1]).toNat := by
  obtain ⟨hnf, -⟩ := fieldIndices_ok (widthOperands_ok h)
  rw [widthOperands_of_nf_le hnf] at h
  exact (readWidths_ok h).2

theorem indices_of_widthOperands {s : State} {ws : List (Fin 8 × Width)} (h : widthOperands s = .ok ws) :
    ws.map Prod.fst = (List.finRange 8).take s.nf.toNat :=
  (fieldIndices_ok (widthOperands_ok h)).2

/-- The widths that are read are the width registers below `NF`. -/
theorem map_bits_widthOperands {s : State} {ws : List (Fin 8 × Width)} (h : widthOperands s = .ok ws) :
    (ws.map Prod.snd).map (·.bits) = ((List.finRange 8).take s.nf.toNat).map fun i => (s.w[i]).toNat := by
  rw [← indices_of_widthOperands h, List.map_map, List.map_map]
  exact List.map_congr_left (bits_of_widthOperands h)

theorem widthOperands_of_illegal {s : State} {i : Fin 8} (hnf : s.nf.toNat ≤ 8) (hi : i.val < s.nf.toNat)
    (hbad : ¬ (1 ≤ (s.w[i]).toNat ∧ (s.w[i]).toNat ≤ 32))
    (hfirst : ∀ j : Fin 8, j < i → 1 ≤ (s.w[j]).toNat ∧ (s.w[j]).toNat ≤ 32) :
    widthOperands s = .error (.badOperand (.width i.val)) := by
  cases hws : widthOperands s with
  | ok ws =>
    have hmem : i ∈ ws.map Prod.fst := indices_of_widthOperands hws ▸ mem_take_finRange.mpr hi
    obtain ⟨p, hp, rfl⟩ := List.mem_map.mp hmem
    rw [← bits_of_widthOperands hws p hp] at hbad
    exact absurd ⟨p.2.pos, p.2.le⟩ hbad
  | error e =>
    rw [widthOperands_of_nf_le hnf] at hws
    obtain ⟨pre, j, post, hsplit, rfl, hj, hpre⟩ := readWidths_error hws
    rw [eq_of_first_defect (Ok := fun k => 1 ≤ (s.w[k]).toNat ∧ (s.w[k]).toNat ≤ 32) hsplit hpre hj hi hbad hfirst]

theorem totalBits_eq_sum (ws : List Width) : totalBits ws = (ws.map (·.bits)).sum := by
  induction ws with
  | nil => rfl
  | cons w ws ih => rw [totalBits_cons, ih, List.map_cons, List.sum_cons]

theorem totalBits_take_widthOperands {s : State} {ws : List (Fin 8 × Width)} (h : widthOperands s = .ok ws) {n : Nat}
    (hn : n ≤ s.nf.toNat) : totalBits ((ws.map Prod.snd).take n) = widthSum s n := by
  rw [totalBits_eq_sum, List.map_take, map_bits_widthOperands h, ← List.map_take, List.take_take, Nat.min_eq_left hn,
    widthSum]

theorem totalBits_widthOperands {s : State} {ws : List (Fin 8 × Width)} (h : widthOperands s = .ok ws) :
    totalBits (ws.map Prod.snd) = widthSum s s.nf.toNat := by
  rw [← totalBits_take_widthOperands h (le_refl _), List.take_of_length_le]
  rw [List.length_map, length_of_widthOperands h]

/-- Eight legal widths fill at most the 256 bits of `BUF`. -/
theorem widthSum_le {s : State} (h : WidthsLegal s) : widthSum s s.nf.toNat ≤ 256 := by
  obtain ⟨hnf, hlegal⟩ := h
  have hsum : widthSum s s.nf.toNat ≤ _ := List.sum_le_card_nsmul _ 32 fun x hx => by
    obtain ⟨i, hi, rfl⟩ := List.mem_map.mp hx
    exact (hlegal i (mem_take_finRange.mp hi)).2
  simp only [List.length_map, List.length_take, List.length_finRange, smul_eq_mul] at hsum
  omega

/-! ## The field operands -/

theorem fieldOperands_of_error {s : State} {e : CmdError} (h : widthOperands s = .error e) :
    fieldOperands s = .error e := by
  simp only [fieldOperands, h]

theorem fieldOperands_of_widths {s : State} {ws : List (Fin 8 × Width)} (h : widthOperands s = .ok ws) :
    fieldOperands s = readFields s ws := by
  simp only [fieldOperands, h]

/-- The fields that are read pair the value registers with the widths read before. -/
theorem map_pair_readFields {s : State} {ws : List (Fin 8 × Width)} {fs : List BitField} (h : readFields s ws = .ok fs) :
    fs.map (fun f => (f.value, f.width.bits)) = ws.map fun p => ((s.v[p.1]).toNat, p.2.bits) := by
  obtain ⟨hwidth, hvalue⟩ := readFields_ok h
  have hbits : fs.map (fun f => f.width.bits) = ws.map fun p => p.2.bits := by
    have hmap := congrArg (List.map (·.bits)) hwidth
    rw [List.map_map, List.map_map] at hmap
    exact hmap
  rw [← List.zip_map', ← List.zip_map', hvalue, hbits]

/-- Fields are read only when every value fits. -/
theorem fits_of_readFields {s : State} {ws : List (Fin 8 × Width)} {fs : List BitField} (h : readFields s ws = .ok fs) :
    ∀ p ∈ ws, (s.v[p.1]).toNat < 2 ^ p.2.bits := by
  intro p hp
  have hpair : ((s.v[p.1]).toNat, p.2.bits) ∈ fs.map fun f => (f.value, f.width.bits) :=
    map_pair_readFields h ▸ List.mem_map_of_mem hp
  obtain ⟨f, -, hf⟩ := List.mem_map.mp hpair
  obtain ⟨hvalue, hbits⟩ := Prod.mk.inj hf
  rw [← hvalue, ← hbits]
  exact f.fits

/-- With a legal field table the fields that are read are the table below `NF`. -/
theorem fieldOperands_of_legal {s : State} (h : WidthsLegal s)
    (hfit : ∀ i : Fin 8, i.val < s.nf.toNat → (s.v[i]).toNat < 2 ^ (s.w[i]).toNat) :
    ∃ fs, fieldOperands s = .ok fs ∧ totalBits (fs.map (·.width)) = widthSum s s.nf.toNat ∧
      fs.map (fun f => (f.value, f.width.bits)) =
        ((List.finRange 8).take s.nf.toNat).map fun i => ((s.v[i]).toNat, (s.w[i]).toNat) := by
  obtain ⟨ws, hws⟩ := widthOperands_of_legal h
  have hindices := indices_of_widthOperands hws
  have hvalues : ∀ p ∈ ws, (s.v[p.1]).toNat < 2 ^ p.2.bits := fun p hp => by
    rw [bits_of_widthOperands hws p hp]
    exact hfit p.1 (mem_take_finRange.mp (hindices ▸ List.mem_map_of_mem hp))
  obtain ⟨fs, hfs⟩ := readFields_total s ws hvalues
  refine ⟨fs, by rw [fieldOperands_of_widths hws, hfs], ?total, ?table⟩
  case total => rw [(readFields_ok hfs).1, totalBits_widthOperands hws]
  case table =>
    rw [map_pair_readFields hfs, ← hindices, List.map_map]
    exact List.map_congr_left fun p hp => congrArg (Prod.mk _) (bits_of_widthOperands hws p hp)

theorem fieldOperands_of_misfit {s : State} {i : Fin 8} (h : WidthsLegal s) (hi : i.val < s.nf.toNat)
    (hbad : 2 ^ (s.w[i]).toNat ≤ (s.v[i]).toNat)
    (hfirst : ∀ j : Fin 8, j < i → (s.v[j]).toNat < 2 ^ (s.w[j]).toNat) :
    fieldOperands s = .error (.fieldRange i.val) := by
  obtain ⟨ws, hws⟩ := widthOperands_of_legal h
  have hbits := bits_of_widthOperands hws
  have hindices := indices_of_widthOperands hws
  rw [fieldOperands_of_widths hws]
  cases hfs : readFields s ws with
  | ok fs =>
    obtain ⟨p, hp, rfl⟩ := List.mem_map.mp (hindices ▸ mem_take_finRange.mpr hi)
    have hfit := fits_of_readFields hfs p hp
    rw [hbits p hp] at hfit
    exact absurd hfit (Nat.not_lt.mpr hbad)
  | error e =>
    obtain ⟨pre, p, post, rfl, rfl, hp, hpre⟩ := readFields_error hfs
    rw [hbits p (by simp)] at hp
    have hpre' : ∀ k ∈ pre.map Prod.fst, (s.v[k]).toNat < 2 ^ (s.w[k]).toNat := fun k hk => by
      obtain ⟨q, hq, rfl⟩ := List.mem_map.mp hk
      rw [← hbits q (by simp [hq])]
      exact hpre q hq
    rw [List.map_append, List.map_cons] at hindices
    rw [eq_of_first_defect (Ok := fun k => (s.v[k]).toNat < 2 ^ (s.w[k]).toNat) hindices.symm hpre' hp hi
      (Nat.not_lt.mpr hbad) hfirst]

/-! ## `PACK` -/

theorem exec_pack_of_error {s : State} {e : CmdError} (h : fieldOperands s = .error e) :
    exec .pack s = .next (s.raise e) := by
  rw [exec_pack, h]
  rfl

theorem exec_pack_of_fields {s : State} {fs : List BitField} (h : fieldOperands s = .ok fs) :
    exec .pack s = .next (s.setEncoded (pack fs)).complete := by
  rw [exec_pack, h]
  rfl

/-- A byte string of at most 32 bytes, written into the buffer, reads back byte for byte, and then zeros. -/
theorem read_ofBytes_of_length_le {bytes : List Byte} (h : bytes.length ≤ 32) (j : Nat) :
    (Memory.ofBytes bytes).read j = bytes.getD j 0 := by
  rw [Memory.read_ofBytes]
  split
  · rfl
  · rw [List.getD_eq_default _ _ (by omega)]

/-- Settles O28: `PACK` is `pack` on the checked field table, or the error of the first check that fails. -/
theorem packPacksTheFieldTable : Obligations.PackPacksTheFieldTable := by
  refine ⟨by decide, fun s => ⟨fun hlegal hfit => ?completes, fun hnf => ?nf, fun i hnf hi hbad hfirst => ?width,
    fun i hlegal hi hbad hfirst => ?value⟩⟩
  case completes =>
    obtain ⟨fs, hfs, htotal, htable⟩ := fieldOperands_of_legal hlegal hfit
    have hsum := widthSum_le hlegal
    have hlength : (pack fs).length = (widthSum s s.nf.toNat + 7) / 8 := by rw [length_pack, htotal, bytesFor]
    have hlen : ((s.setEncoded (pack fs)).complete).len.toNat = (widthSum s s.nf.toNat + 7) / 8 := by
      rw [State.complete_len, State.setEncoded_len, BitVec.toNat_ofNat, hlength]
      omega
    exact ⟨fs, (s.setEncoded (pack fs)).complete, htable, exec_pack_of_fields hfs, rfl, hlen, by omega,
      Memory.wf_ofBytes (pack fs), read_ofBytes_of_length_le (by omega)⟩
  case nf => exact exec_pack_of_error (fieldOperands_of_error (widthOperands_of_nf_gt hnf))
  case width => exact exec_pack_of_error (fieldOperands_of_error (widthOperands_of_illegal hnf hi hbad hfirst))
  case value => exact exec_pack_of_error (fieldOperands_of_misfit hlegal hi hbad hfirst)

/-! ## `UNPACK` -/

theorem exec_unpack_of_error {s : State} {e : CmdError} (h : unpackedValues s = .error e) :
    exec .unpack s = .next (s.raise e) := by
  rw [exec_unpack, h]
  rfl

theorem exec_unpack_of_values {s : State} {vs : List Nat} (h : unpackedValues s = .ok vs) :
    exec .unpack s = .next (s.setFieldValues vs).complete := by
  rw [exec_unpack, h]
  rfl

theorem unpackedValues_of_error {s : State} {e : CmdError} (h : widthOperands s = .error e) :
    unpackedValues s = .error e := by
  rw [unpackedValues, h]
  rfl

theorem unpackedValues_of_len_gt {s : State} (h : WidthsLegal s) (hlen : 32 < s.len.toNat) :
    unpackedValues s = .error (.badOperand (.len s.len)) := by
  obtain ⟨ws, hws⟩ := widthOperands_of_legal h
  have hbuffer : readBuffer s = .error (.badOperand (.len s.len)) := if_neg (Nat.not_le.mpr hlen)
  rw [unpackedValues, hws, hbuffer]
  rfl

/-- The bytes of `BUF` below `LEN`. -/
def bufferBytes (s : State) : List Byte := (List.range s.len.toNat).map s.buf.read

@[simp] theorem length_bufferBytes (s : State) : (bufferBytes s).length = s.len.toNat := by simp [bufferBytes]

theorem bigEndianNumber_bufferBytes (s : State) :
    bigEndianNumber (bufferBytes s) = bufNumber s.buf 0 s.len.toNat := by
  simp only [bufferBytes, bufNumber, Nat.zero_add]

theorem unpackedValues_of_buffer {s : State} {ws : List (Fin 8 × Width)} (hws : widthOperands s = .ok ws)
    (hlen : s.len.toNat ≤ 32) : unpackedValues s = unpack (bufferBytes s) (ws.map Prod.snd) := by
  have hbuffer : readBuffer s = .ok (bufferBytes s) := if_pos hlen
  rw [unpackedValues, hws, hbuffer]
  rfl

theorem unpackedValues_of_short {s : State} (h : WidthsLegal s) (hlen : s.len.toNat ≤ 32)
    (hshort : 8 * s.len.toNat < widthSum s s.nf.toNat) :
    unpackedValues s = .error (.shortBuffer (widthSum s s.nf.toNat) (8 * s.len.toNat)) := by
  obtain ⟨ws, hws⟩ := widthOperands_of_legal h
  have htotal := totalBits_widthOperands hws
  rw [unpackedValues_of_buffer hws hlen, unpack_of_short (by rw [length_bufferBytes]; omega), htotal,
    length_bufferBytes]

/-- With a long enough buffer, the value at an index below `NF` is its slice of the buffer. -/
theorem unpackedValues_of_enough {s : State} (h : WidthsLegal s) (hlen : s.len.toNat ≤ 32)
    (henough : widthSum s s.nf.toNat ≤ 8 * s.len.toNat) :
    ∃ vs, unpackedValues s = .ok vs ∧ ∀ i : Fin 8, i.val < s.nf.toNat →
      vs[i.val]? = some ((bufNumber s.buf 0 s.len.toNat >>> (8 * s.len.toNat - widthSum s i.val - (s.w[i]).toNat)) %
        2 ^ (s.w[i]).toNat) := by
  obtain ⟨ws, hws⟩ := widthOperands_of_legal h
  have hroom : totalBits (ws.map Prod.snd) ≤ 8 * (bufferBytes s).length := by
    rw [totalBits_widthOperands hws, length_bufferBytes]
    exact henough
  refine ⟨_, by rw [unpackedValues_of_buffer hws hlen, unpack_of_enough hroom], fun i hi => ?_⟩
  have hlt : i.val < (ws.map Prod.snd).length := by rw [List.length_map, length_of_widthOperands hws]; exact hi
  have hwidth : ((ws.map Prod.snd)[i.val]).bits = (s.w[i]).toNat := by
    have hget := List.getElem_of_eq (map_bits_widthOperands hws) (i := i.val) (by rwa [List.length_map])
    simpa using hget
  rw [getElem?_unpackFrom_eq_slice hroom (List.getElem?_eq_getElem hlt), hwidth,
    totalBits_take_widthOperands hws (Nat.le_of_lt hi), bigEndianNumber_bufferBytes, length_bufferBytes]

/-- Settles O29: `UNPACK` is `unpack` on the buffer below `LEN`, or the error of the first check that fails. -/
theorem unpackReadsTheBuffer : Obligations.UnpackReadsTheBuffer := by
  refine ⟨by decide, fun s => ⟨fun hlegal hlen henough => ?completes, fun hnf => ?nf,
    fun i hnf hi hbad hfirst => ?width, fun hlegal hlen => ?len, fun hlegal hlen hshort => ?short⟩⟩
  case completes =>
    obtain ⟨vs, hvs, hslice⟩ := unpackedValues_of_enough hlegal hlen henough
    refine ⟨(s.setFieldValues vs).complete, exec_unpack_of_values hvs, rfl, fun i => ?_⟩
    rw [State.complete_v, State.setFieldValues_v_get]
    by_cases hi : i.val < s.nf.toNat
    · obtain ⟨-, hwidth⟩ := hlegal.2 i hi
      have hpow : 2 ^ (s.w[i]).toNat ≤ 2 ^ 32 := Nat.pow_le_pow_right (by omega) hwidth
      rw [hslice i hi, if_pos hi, Option.elim_some, BitVec.toNat_ofNat]
      exact Nat.mod_eq_of_lt (Nat.lt_of_lt_of_le (Nat.mod_lt _ (Nat.two_pow_pos _)) hpow)
    · have hpast : vs[i.val]? = none := List.getElem?_eq_none (by rw [length_of_unpackedValues hvs]; omega)
      rw [hpast, if_neg hi, Option.elim_none]
  case nf => exact exec_unpack_of_error (unpackedValues_of_error (widthOperands_of_nf_gt hnf))
  case width => exact exec_unpack_of_error (unpackedValues_of_error (widthOperands_of_illegal hnf hi hbad hfirst))
  case len => exact exec_unpack_of_error (unpackedValues_of_len_gt hlegal hlen)
  case short => exact exec_unpack_of_error (unpackedValues_of_short hlegal hlen hshort)

end Sys2Proof.Machine
end

-- ==== Proofs: rounding to the nearest code ====
section
/-!
PROOF. 41_quantization.md R150 to R153, R164 and R166. The three quantizers are one function, `linearCode`, with three
sets of constants. The first part is about the rounding alone, the second about `linearCode`, and the others settle the
statements about the codes by putting the constants in.
-/

namespace Sys2Proof.Machine

/-! ## The rounding of a number that is not negative -/

/-- The rounding of N/D is the integer nearest to N/D, halves up. -/
theorem roundHaz_eq_iff {n d : Int} (c : Int) (hn : 0 ≤ n) (hd : 0 < d) :
    roundHaz n d = c ↔ 2 * d * c ≤ 2 * n + d ∧ 2 * n + d < 2 * d * (c + 1) := by
  rw [roundHaz_of_nonneg d hn, Int.ediv_eq_iff_of_pos (by omega), mul_comm c, mul_add, mul_one]

theorem roundHaz_mono {n n' d : Int} (hn : 0 ≤ n) (hle : n ≤ n') (hd : 0 < d) : roundHaz n d ≤ roundHaz n' d := by
  rw [roundHaz_of_nonneg d hn, roundHaz_of_nonneg d (hn.trans hle)]
  exact Int.ediv_le_ediv (by omega) (by omega)

/-- With an even divisor the rounding adds half the divisor and divides. -/
theorem roundHaz_two_mul {n : Int} (h : Int) (hn : 0 ≤ n) : roundHaz n (2 * h) = (n + h) / (2 * h) := by
  rw [roundHaz_of_nonneg _ hn, ← mul_add, Int.mul_ediv_mul_of_pos _ _ (by omega)]

/-- Halves to even is halves up where the integer below each half is odd. -/
theorem roundHalfEven_eq_roundHaz {n d : Int} (hn : 0 ≤ n) (hd : 0 < d)
    (hodd : 2 * n % (2 * d) = d → n / d % 2 = 1) : roundHalfEven n d = roundHaz n d := by
  unfold roundHalfEven
  split
  case isTrue htie =>
    rw [if_neg (by have := hodd htie; omega), eq_comm, roundHaz_eq_iff _ hn hd]
    have hfloor : 2 * n / (2 * d) = n / d := Int.mul_ediv_mul_of_pos _ _ (by omega)
    have hsplit := Int.mul_ediv_add_emod (2 * n) (2 * d)
    rw [htie, hfloor] at hsplit
    constructor <;> linarith
  case isFalse => rw [roundHaz_of_nonneg d hn]

theorem emod_two_mul_eq_half_iff {h : Int} (z : Int) (hh : 0 < h) : z % (2 * h) = h ↔ 2 * h ∣ z - h := by
  rw [Int.dvd_iff_emod_eq_zero, ← Int.emod_eq_emod_iff_emod_sub_eq_zero, Int.emod_eq_of_lt hh.le (by omega)]

/-- A factor prime to the divisor moves no half: z * m over 2h lies at a half exactly when z over 2h does. -/
theorem mul_emod_eq_half_iff {h m : Int} (z : Int) (hh : 0 < h) (hodd : m % 2 = 1) (hcop : IsCoprime (2 * h) m) :
    z * m % (2 * h) = h ↔ z % (2 * h) = h := by
  have hhalf : m = 2 * (m / 2) + 1 := by omega
  have hsplit : z * m - h = (z - h) * m + 2 * h * (m / 2) := by linear_combination h * hhalf
  rw [emod_two_mul_eq_half_iff _ hh, emod_two_mul_eq_half_iff _ hh, hsplit, dvd_add_left (dvd_mul_right _ _)]
  exact ⟨hcop.dvd_of_dvd_mul_right, fun hdvd => hdvd.mul_right m⟩

/-! ## The function behind the three quantizers -/

/-- A quantizer on the inputs from `-a` to `hi`: the code `(x + a) * m / d`, rounded, and outside it the overflow of
field `f` (41_quantization.md R157). -/
def linearCode (f : GeoField) (a hi m d x : Int) : Except CmdError Int :=
  if x < -a ∨ hi < x then .error (.quantizationOverflow f) else .ok (roundHaz ((x + a) * m) d)

theorem qLat_eq_linearCode : qLat = linearCode .latitude 900000000 900000000 524287 1800000000 := funext qLat_eq

theorem qLon_eq_linearCode : qLon = linearCode .longitude 1800000000 1800000000 524287 3600000000 := funext qLon_eq

theorem qAlt_eq_linearCode : qAlt = linearCode .altitude 0 124838456 328084 2500000000 := by
  funext x
  rw [qAlt_eq, linearCode, neg_zero, add_zero]

section LinearCode

variable {f : GeoField} {a hi m d x y c c' : Int}

theorem linearCode_of_outside (h : x < -a ∨ hi < x) : linearCode f a hi m d x = .error (.quantizationOverflow f) :=
  if_pos h

theorem linearCode_of_inside (hlo : -a ≤ x) (hhi : x ≤ hi) :
    linearCode f a hi m d x = .ok (roundHaz ((x + a) * m) d) :=
  if_neg (by omega)

/-- An answer comes from the domain, and is the rounding. -/
theorem linearCode_eq_ok_iff :
    linearCode f a hi m d x = .ok c ↔ (-a ≤ x ∧ x ≤ hi) ∧ roundHaz ((x + a) * m) d = c := by
  by_cases hdom : -a ≤ x ∧ x ≤ hi
  · rw [linearCode_of_inside hdom.1 hdom.2, Except.ok.injEq, and_iff_right hdom]
  · simp [linearCode_of_outside (show x < -a ∨ hi < x by omega), hdom]

theorem linearCode_numerator_nonneg (hm : 0 ≤ m) (hlo : -a ≤ x) : 0 ≤ (x + a) * m := mul_nonneg (by omega) hm

/-- The answer is the code nearest to N/D, halves up. -/
theorem linearCode_eq_ok_iff_nearest (hm : 0 ≤ m) (hd : 0 < d) :
    linearCode f a hi m d x = .ok c ↔ (-a ≤ x ∧ x ≤ hi) ∧
      2 * d * c ≤ 2 * ((x + a) * m) + d ∧ 2 * ((x + a) * m) + d < 2 * d * (c + 1) :=
  linearCode_eq_ok_iff.trans <| and_congr_right fun ⟨hlo, _⟩ =>
    roundHaz_eq_iff c (linearCode_numerator_nonneg hm hlo) hd

/-- The codes of the domain lie between 0 and the code of its upper end. -/
theorem linearCode_range (hm : 0 ≤ m) (hd : 0 < d) (htop : roundHaz ((hi + a) * m) d = c)
    (hlo : -a ≤ x) (hhi : x ≤ hi) : ∃ c', linearCode f a hi m d x = .ok c' ∧ 0 ≤ c' ∧ c' ≤ c := by
  have hnum := linearCode_numerator_nonneg hm hlo
  refine ⟨_, linearCode_of_inside hlo hhi, ?_, htop ▸ roundHaz_mono hnum ?_ hd⟩
  · rw [roundHaz_of_nonneg d hnum]
    exact Int.ediv_nonneg (by omega) (by omega)
  · exact mul_le_mul_of_nonneg_right (by omega) hm

theorem linearCode_mono (hm : 0 ≤ m) (hd : 0 < d) (hxy : x ≤ y) (hx : linearCode f a hi m d x = .ok c)
    (hy : linearCode f a hi m d y = .ok c') : c ≤ c' := by
  obtain ⟨⟨hlo, -⟩, rfl⟩ := linearCode_eq_ok_iff.mp hx
  obtain ⟨-, rfl⟩ := linearCode_eq_ok_iff.mp hy
  exact roundHaz_mono (linearCode_numerator_nonneg hm hlo) (mul_le_mul_of_nonneg_right (by omega) hm) hd

theorem linearCode_halfEven (hm : 0 ≤ m) (hd : 0 < d) (hlo : -a ≤ x) (hhi : x ≤ hi)
    (hodd : 2 * ((x + a) * m) % (2 * d) = d → (x + a) * m / d % 2 = 1) :
    linearCode f a hi m d x = .ok (roundHalfEven ((x + a) * m) d) := by
  rw [linearCode_of_inside hlo hhi, roundHalfEven_eq_roundHaz (linearCode_numerator_nonneg hm hlo) hd hodd]

/-- With an even divisor the code is one sum and one division. -/
theorem linearCode_of_even_divisor {h : Int} (hm : 0 ≤ m) (hd : d = 2 * h) (hlo : -a ≤ x) (hhi : x ≤ hi) :
    linearCode f a hi m d x = .ok (((x + a) * m + h) / d) := by
  rw [linearCode_of_inside hlo hhi, hd, roundHaz_two_mul h (linearCode_numerator_nonneg hm hlo)]

end LinearCode

/-! ## The codes of the three quantizers -/

/-- Settles O31: the answer of `linearCode` is the nearest code, with the constants of each quantizer. -/
theorem quantizersRoundToTheNearestCode : Obligations.QuantizersRoundToTheNearestCode := by
  unfold Obligations.QuantizersRoundToTheNearestCode
  rw [qLat_eq_linearCode, qLon_eq_linearCode, qAlt_eq_linearCode]
  refine ⟨fun x c => linearCode_eq_ok_iff_nearest (by decide) (by decide), fun x => linearCode_of_outside,
    fun x c => linearCode_eq_ok_iff_nearest (by decide) (by decide), fun x => linearCode_of_outside,
    fun x c => ?_, fun x hout => linearCode_of_outside hout⟩
  rw [linearCode_eq_ok_iff_nearest (by decide) (by decide), neg_zero, add_zero]

/-- Settles O32: the rounding is monotone, and the upper ends of the three domains have the largest codes that fit. -/
theorem quantizerRangeSoundness : Obligations.QuantizerRangeSoundness := by
  unfold Obligations.QuantizerRangeSoundness
  rw [qLat_eq_linearCode, qLon_eq_linearCode, qAlt_eq_linearCode]
  exact ⟨fun x => linearCode_range (by decide) (by decide) (by decide),
    fun x => linearCode_range (by decide) (by decide) (by decide),
    fun x hlo hhi => linearCode_range (by decide) (by decide) (by decide) hlo hhi,
    fun x y c d => linearCode_mono (by decide) (by decide),
    fun x y c d => linearCode_mono (by decide) (by decide),
    fun x y c d => linearCode_mono (by decide) (by decide)⟩

/-! ## Halves -/

/-- On a domain from -h to h, with the divisor 2h, the only half is at input 0. -/
theorem tie_iff_eq_zero {h m x : Int} (hh : 0 < h) (hodd : m % 2 = 1) (hcop : IsCoprime (2 * h) m) (hlo : -h ≤ x)
    (hhi : x ≤ h) : 2 * ((x + h) * m) % (2 * (2 * h)) = 2 * h ↔ x = 0 := by
  rw [Int.mul_emod_mul_of_pos _ _ (by decide : (0 : Int) < 2), mul_right_inj' (by decide : (2 : Int) ≠ 0),
    mul_emod_eq_half_iff _ hh hodd hcop, emod_two_mul_eq_half_iff _ hh, add_sub_cancel_right]
  constructor
  · intro hdvd
    exact Int.eq_zero_of_abs_lt_dvd hdvd (abs_lt.mpr ⟨by omega, by omega⟩)
  · rintro rfl
    exact dvd_zero _

/-- On such a domain both tie rules give the same codes if N/D at input 0, which is m/2, lies above an odd integer. -/
theorem linearCode_symmetric_halfEven {f : GeoField} {h d m x : Int} (hd : d = 2 * h) (hh : 0 < h) (hm : 0 ≤ m)
    (hodd : m % 4 = 3) (hcop : IsCoprime d m) (hlo : -h ≤ x) (hhi : x ≤ h) :
    (2 * ((x + h) * m) % (2 * d) = d ↔ x = 0) ∧
      linearCode f h h m d x = .ok (roundHalfEven ((x + h) * m) d) := by
  subst hd
  have htie := tie_iff_eq_zero hh (by omega) hcop hlo hhi
  refine ⟨htie, linearCode_halfEven hm (by omega) hlo hhi fun hhalf => ?_⟩
  rw [htie.mp hhalf, zero_add, mul_comm 2 h, Int.mul_ediv_mul_of_pos _ _ hh]
  omega

/-- The altitudes at a half are the odd multiples of 312 500 000 mm, and the domain ends below the first of them. -/
theorem altitude_no_half {x : Int} (hlo : 0 ≤ x) (hhi : x ≤ 124838456) :
    2 * (x * 328084) % (2 * 2500000000) ≠ 2500000000 := by
  intro htie
  have hreduced : x * 82021 % (2 * 312500000) = 312500000 := by omega
  have hhalf : x % (2 * 312500000) = 312500000 :=
    (mul_emod_eq_half_iff x (by decide) (by decide) (by norm_num)).mp hreduced
  omega

/-- Settles O33: 524287 is prime to both divisors and 3 modulo 4; the altitudes have no half. -/
theorem tiesOnlyAtTheOrigin : Obligations.TiesOnlyAtTheOrigin := by
  unfold Obligations.TiesOnlyAtTheOrigin
  rw [qLat_eq_linearCode, qLon_eq_linearCode, qAlt_eq_linearCode]
  refine ⟨fun x => linearCode_symmetric_halfEven (by decide) (by decide) (by decide) (by decide) (by norm_num),
    fun x => linearCode_symmetric_halfEven (by decide) (by decide) (by decide) (by decide) (by norm_num),
    fun x hlo hhi => ?altitude⟩
  case altitude =>
    have hnone := altitude_no_half hlo hhi
    refine ⟨hnone, ?_⟩
    rw [linearCode_of_inside hlo hhi, add_zero,
      roundHalfEven_eq_roundHaz (by omega) (by decide) fun hhalf => absurd hhalf hnone]

end Sys2Proof.Machine
end

-- ==== Proofs: the quantizer commands ====
section
/-!
PROOF. 41_quantization.md R160 to R163: each command puts the code of its geodetic register into its report register, or
raises the overflow of its field.
-/

namespace Sys2Proof.Machine

theorem qTrk_eq_extractLsb' (t : BitVec 16) : qTrk t = t.extractLsb' 0 12 := by
  apply BitVec.eq_of_toNat_eq
  rw [qTrk, BitVec.toNat_setWidth, BitVec.toNat_and, BitVec.extractLsb'_toNat, Nat.shiftRight_zero]
  exact (Nat.mod_eq_of_lt (Nat.lt_of_le_of_lt Nat.and_le_right (by decide))).trans (Nat.and_two_pow_sub_one_eq_mod _ 12)

section

variable {x : Int}

theorem qLat_of_outside (h : x < -900000000 ∨ 900000000 < x) : qLat x = .error (.quantizationOverflow .latitude) := by
  rw [qLat_eq_linearCode, linearCode_of_outside h]

theorem qLat_of_inside (hlo : -900000000 ≤ x) (hhi : x ≤ 900000000) :
    qLat x = .ok (((x + 900000000) * 524287 + 900000000) / 1800000000) := by
  rw [qLat_eq_linearCode, linearCode_of_even_divisor (d := 1800000000) (h := 900000000) (by decide) rfl hlo hhi]

theorem qLon_of_outside (h : x < -1800000000 ∨ 1800000000 < x) :
    qLon x = .error (.quantizationOverflow .longitude) := by
  rw [qLon_eq_linearCode, linearCode_of_outside h]

theorem qLon_of_inside (hlo : -1800000000 ≤ x) (hhi : x ≤ 1800000000) :
    qLon x = .ok (((x + 1800000000) * 524287 + 1800000000) / 3600000000) := by
  rw [qLon_eq_linearCode, linearCode_of_even_divisor (d := 3600000000) (h := 1800000000) (by decide) rfl hlo hhi]

theorem qAlt_of_outside (h : x < 0 ∨ 124838456 < x) : qAlt x = .error (.quantizationOverflow .altitude) := by
  rw [qAlt_eq_linearCode, linearCode_of_outside h]

theorem qAlt_of_inside (hlo : 0 ≤ x) (hhi : x ≤ 124838456) :
    qAlt x = .ok ((x * 328084 + 1250000000) / 2500000000) := by
  rw [qAlt_eq_linearCode, linearCode_of_even_divisor (d := 2500000000) (h := 1250000000) (by decide) rfl hlo hhi,
    add_zero]

end

/-- Settles O35: `LATP` receives the value of the quantizer on `GLAT`, and an overflow is raised as it is. -/
theorem qlatQuantizesOrRaises : Obligations.QlatQuantizesOrRaises := by
  refine ⟨by decide, fun s => ⟨fun hlo hhi => ?completes, fun hout => ?raises⟩⟩
  case completes =>
    rw [exec_qlat, qLat_of_inside hlo hhi]
    rfl
  case raises =>
    rw [exec_qlat, qLat_of_outside hout]
    rfl

/-- Settles O36: `LONP` receives the value of the quantizer on `GLON`, and an overflow is raised as it is. -/
theorem qlonQuantizesOrRaises : Obligations.QlonQuantizesOrRaises := by
  refine ⟨by decide, fun s => ⟨fun hlo hhi => ?completes, fun hout => ?raises⟩⟩
  case completes =>
    rw [exec_qlon, qLon_of_inside hlo hhi]
    rfl
  case raises =>
    rw [exec_qlon, qLon_of_outside hout]
    rfl

/-- Settles O37: `ALTP` receives the value of the quantizer on `GALT`, and an overflow is raised as it is. -/
theorem qaltQuantizesOrRaises : Obligations.QaltQuantizesOrRaises := by
  refine ⟨by decide, fun s => ⟨fun hlo hhi => ?completes, fun hout => ?raises⟩⟩
  case completes =>
    rw [exec_qalt, qAlt_of_inside hlo hhi]
    rfl
  case raises =>
    rw [exec_qalt, qAlt_of_outside hout]
    rfl

/-- Settles O38: `QTRK` has no check, so only the mask remains. -/
theorem qtrkCopiesTheTrack : Obligations.QtrkCopiesTheTrack := by
  refine ⟨by decide, fun s => ?_⟩
  rw [← qTrk_eq_extractLsb']
  rfl

end Sys2Proof.Machine
end

-- ==== Proofs: the air-track body codec ====
section
/-!
PROOF. 42_airtrack_body.md R182, R184, R187 and R189. The body codec is the packer between two translations: a report
into a field list, and a value list into a report. The first part says that the two translations undo each other on every
layout without repetition; the round trips are then those of the packer. The other parts bring the codec into the form
of the body map: one 120-bit pattern, and its slices.
-/

namespace Sys2Proof.Machine

/-! ## Reports and field lists -/

theorem bitField_ext {f g : BitField} (hwidth : f.width = g.width) (hvalue : f.value = g.value) : f = g := by
  cases f
  cases g
  cases hwidth
  cases hvalue
  rfl

theorem reportField_setReportField_same (r : Report) {n : FieldName} {x : Nat} (h : x < 2 ^ (fieldWidth n).bits) :
    reportField (setReportField r n x) n = ⟨fieldWidth n, x, h⟩ := by
  cases n <;> exact bitField_ext rfl (Nat.mod_eq_of_lt h)

/-- Each field of a report is a register of its own. -/
theorem reportField_setReportField_other (r : Report) {n m : FieldName} (x : Nat) (h : m ≠ n) :
    reportField (setReportField r n x) m = reportField r m := by
  cases n <;> cases m <;> trivial

/-- A report is determined by its fields. -/
theorem report_eq_of_fields {r r' : Report} (h : ∀ n, reportField r n = reportField r' n) : r = r' := by
  have hvalue := fun n => congrArg BitField.value (h n)
  cases r
  cases r'
  rw [Report.mk.injEq]
  exact ⟨BitVec.eq_of_toNat_eq (hvalue .track), BitVec.eq_of_toNat_eq (hvalue .latitudePacked),
    BitVec.eq_of_toNat_eq (hvalue .longitudePacked), BitVec.eq_of_toNat_eq (hvalue .trackNumber),
    BitVec.eq_of_toNat_eq (hvalue .altitudePacked), BitVec.eq_of_toNat_eq (hvalue .parity),
    BitVec.eq_of_toNat_eq (hvalue .speedMs), BitVec.eq_of_toNat_eq (hvalue .headingCdeg)⟩

@[simp] theorem map_width_reportFields (layout : Layout) (r : Report) :
    (layout.map (reportField r)).map (·.width) = layout.map fieldWidth := by
  rw [List.map_map]
  exact List.map_congr_left fun n _ => reportField_width r n

/-- On a layout without repetition the report that a field list's values make has that field list. -/
theorem reportFields_reportOfValues {layout : Layout} (hnodup : layout.Nodup) {fs : List BitField}
    (hfs : fs.map (·.width) = layout.map fieldWidth) :
    layout.map (reportField (reportOfValues layout (fs.map (·.value)))) = fs := by
  induction layout generalizing fs with
  | nil => simpa using hfs.symm
  | cons n ns ih =>
    obtain ⟨hn, hns⟩ := List.nodup_cons.mp hnodup
    cases fs with
    | nil => simp at hfs
    | cons f fs =>
      obtain ⟨hwidth, hrest⟩ := List.cons_eq_cons.mp hfs
      obtain ⟨width, value, fits⟩ := f
      subst hwidth
      rw [List.map_cons, List.map_cons, reportOfValues, reportField_setReportField_same _ fits]
      refine congrArg _ (Eq.trans (List.map_congr_left fun m hm => ?_) (ih hns hrest))
      exact reportField_setReportField_other _ value fun hmn => hn (hmn ▸ hm)

/-- A layout with every field and no repetition gives a report back from its values. -/
theorem reportOfValues_reportFields {layout : Layout} (hnodup : layout.Nodup) (hall : ∀ n, n ∈ layout) (r : Report) :
    reportOfValues layout ((layout.map (reportField r)).map (·.value)) = r :=
  report_eq_of_fields fun n =>
    List.map_inj_left.mp (reportFields_reportOfValues hnodup (map_width_reportFields layout r)) n (hall n)

theorem airTrackLayout_nodup : airTrackLayout.Nodup := by decide

theorem mem_airTrackLayout (n : FieldName) : n ∈ airTrackLayout := by cases n <;> decide

/-! ## The round trips -/

theorem bodyDecode_of_values {layout : Layout} {b : List Byte} {vs : List Nat}
    (h : unpack b (layout.map fieldWidth) = .ok vs) : bodyDecode layout b = .ok (reportOfValues layout vs) := by
  rw [bodyDecode, h]

theorem bodyDecode_of_error {layout : Layout} {b : List Byte} {e : CmdError}
    (h : unpack b (layout.map fieldWidth) = .error e) : bodyDecode layout b = .error e := by
  rw [bodyDecode, h]

/-- The round trip on reports, for every layout with every field and no repetition. -/
theorem bodyDecode_bodyEncode_append {layout : Layout} (hnodup : layout.Nodup) (hall : ∀ n, n ∈ layout) (r : Report)
    (x : List Byte) : bodyDecode layout (bodyEncode layout r ++ x) = .ok r := by
  have hunpack := packAndUnpackRoundTrip.1 (layout.map (reportField r)) x
  rw [map_width_reportFields] at hunpack
  rw [bodyEncode, bodyDecode_of_values hunpack, reportOfValues_reportFields hnodup hall]

/-- The round trip on bytes, stream bit by stream bit: the field bits are copied and the others are zeros. -/
theorem streamBit_bodyEncode_of_bodyDecode {layout : Layout} (hnodup : layout.Nodup) {b : List Byte} {r : Report}
    (h : bodyDecode layout b = .ok r) (k : Nat) :
    streamBit (bodyEncode layout r) k = (decide (k < totalBits (layout.map fieldWidth)) && streamBit b k) := by
  by_cases hroom : totalBits (layout.map fieldWidth) ≤ 8 * b.length
  · rw [bodyDecode_of_values (unpack_of_enough hroom), ← map_value_unpackedFields] at h
    cases h
    rw [bodyEncode, reportFields_reportOfValues hnodup (map_width_unpackedFields b _ 0), streamBit_pack_unpackedFields]
  · rw [bodyDecode_of_error (unpack_of_short (by omega))] at h
    cases h

theorem length_bodyEncode (layout : Layout) (r : Report) :
    (bodyEncode layout r).length = bytesFor (totalBits (layout.map fieldWidth)) := by
  rw [bodyEncode, length_pack, map_width_reportFields]

@[simp] theorem length_bodyEncode_airTrackLayout (r : Report) : (bodyEncode airTrackLayout r).length = 15 := by
  rw [length_bodyEncode]
  rfl

/-- The first bytes of a byte sequence have its stream bits. -/
theorem streamBit_take (b : List Byte) {n k : Nat} (h : k < 8 * n) : streamBit (b.take n) k = streamBit b k := by
  have hbyte : k / 8 < n := by omega
  simp only [streamBit, List.getD_eq_getElem?_getD, List.getElem?_take_of_lt hbyte]

/-- The bits of the last byte of a body with its padding cleared: the mask 0xF8 keeps the upper five. -/
theorem getLsbD_and_0xF8 (x : Byte) (j : Nat) : (x &&& 0xF8#8).getLsbD j = (decide (3 ≤ j) && x.getLsbD j) := by
  by_cases hj : j < 8
  · have hmask : (0xF8#8).getLsbD j = decide (3 ≤ j) := by interval_cases j <;> rfl
    rw [BitVec.getLsbD_and, hmask, Bool.and_comm]
  · simp [BitVec.getLsbD_of_ge x j (by omega)]

/-- Clearing the low three bits of byte 14 is keeping the first 117 stream bits of fifteen bytes. -/
theorem streamBit_clearPadding {b : List Byte} (h : 15 ≤ b.length) (k : Nat) :
    streamBit (b.take 14 ++ [b.getD 14 0 &&& 0xF8#8]) k = (decide (k < 117) && streamBit b k) := by
  have hlen : (b.take 14).length = 14 := by rw [List.length_take]; omega
  rcases Nat.lt_or_ge k 112 with hk | hk
  · rw [streamBit_append_left _ _ (by omega), streamBit_take b (by omega), decide_eq_true (by omega), Bool.true_and]
  · rcases Nat.lt_or_ge k 120 with hk' | hk'
    · have hbyte : k / 8 = 14 := by omega
      have hget : (b.take 14 ++ [b.getD 14 0 &&& 0xF8#8]).getD 14 0 = b.getD 14 0 &&& 0xF8#8 := by
        rw [List.getD_append_right _ _ _ _ (by omega), hlen]
        rfl
      rw [streamBit, streamBit, hbyte, hget, getLsbD_and_0xF8,
        decide_eq_decide.mpr (show 3 ≤ 7 - k % 8 ↔ k < 117 by omega)]
    · rw [streamBit_past _ (by rw [List.length_append, hlen, List.length_singleton]; omega), decide_eq_false (by omega),
        Bool.false_and]

theorem bodyEncode_of_bodyDecode {b : List Byte} {r : Report} (hb : 15 ≤ b.length)
    (h : bodyDecode airTrackLayout b = .ok r) :
    bodyEncode airTrackLayout r = b.take 14 ++ [b.getD 14 0 &&& 0xF8#8] := by
  refine bytes_ext ?_ fun k => ?_
  · rw [length_bodyEncode_airTrackLayout, List.length_append, List.length_take, List.length_singleton]
    omega
  · rw [streamBit_bodyEncode_of_bodyDecode airTrackLayout_nodup h, streamBit_clearPadding hb, totalBits_airTrackLayout]

theorem bodyEncode_injective {r r' : Report} (h : bodyEncode airTrackLayout r = bodyEncode airTrackLayout r') :
    r = r' := by
  have hr := bodyDecode_bodyEncode_append airTrackLayout_nodup mem_airTrackLayout r []
  rw [h, bodyDecode_bodyEncode_append airTrackLayout_nodup mem_airTrackLayout] at hr
  exact (Except.ok.inj hr).symm

/-! ## The body as one pattern -/

theorem toNat_append_eq_add {n m : Nat} (x : BitVec n) (y : BitVec m) : (x ++ y).toNat = x.toNat * 2 ^ m + y.toNat := by
  rw [BitVec.toNat_append, ← Nat.shiftLeft_add_eq_or_of_lt y.isLt, Nat.shiftLeft_eq]

/-- The pattern of a body is the concatenation of its fields, above three zero bits. -/
theorem toNat_bodyPattern (r : Report) :
    (bodyPattern r).toNat = concatFields (airTrackLayout.map (reportField r)) * 2 ^ 3 := by
  simp only [bodyPattern, toNat_append_eq_add, airTrackLayout, List.map_cons, List.map_nil, concatFields, reportField,
    totalBits_cons, totalBits_nil, fieldWidth, BitVec.toNat_ofNat]
  ring

theorem bodyEncode_eq_bodyPattern (r : Report) :
    bodyEncode airTrackLayout r = (List.range 15).map fun j => (bodyPattern r).extractLsb' (8 * (14 - j)) 8 := by
  rw [bodyEncode, pack_eq_packNumber, packNumber, map_width_reportFields, totalBits_airTrackLayout]
  refine List.map_congr_left fun j _ => ?_
  rw [BitVec.extractLsb', toNat_bodyPattern]
  rfl

/-- Settles O44: `pack` is the big-endian string of the concatenated fields, which are the pattern. -/
theorem bodyEncodeBits : Obligations.BodyEncodeBits := bodyEncode_eq_bodyPattern

/-! ## The report as slices of the body -/

/-- A field of the first fifteen bytes is a slice of their number. -/
theorem ofNat_getField_eq_slice {b : List Byte} (hb : 15 ≤ b.length) {c w : Nat} (h : c + w ≤ 120) :
    BitVec.ofNat w (getField b c w) =
      (BitVec.ofNat 120 (bigEndianNumber (b.take 15))).extractLsb' (120 - (c + w)) w := by
  have hlen : (b.take 15).length = 15 := by rw [List.length_take]; omega
  refine BitVec.eq_of_getLsbD_eq fun j hj => ?_
  rw [BitVec.getLsbD_ofNat, testBit_getField, BitVec.getLsbD_extractLsb', BitVec.getLsbD_ofNat,
    ← streamBit_take b (show c + (w - 1 - j) < 8 * 15 by omega), ← testBit_bigEndianNumber _ (by omega), hlen,
    show 8 * 15 - 1 - (c + (w - 1 - j)) = 120 - (c + w) + j by omega, decide_eq_true hj,
    decide_eq_true (show 120 - (c + w) + j < 120 by omega), Bool.true_and, Bool.true_and]

theorem bodyDecode_of_length_ge {b : List Byte} (hb : 15 ≤ b.length) :
    bodyDecode airTrackLayout b = .ok (reportAtBodyBits (BitVec.ofNat 120 (bigEndianNumber (b.take 15)))) := by
  have hroom : totalBits (airTrackLayout.map fieldWidth) ≤ 8 * b.length := by
    rw [totalBits_airTrackLayout, Config.bodyBits]
    omega
  rw [bodyDecode_of_values (unpack_of_enough hroom), reportAtBodyBits]
  simp only [airTrackLayout, List.map_cons, List.map_nil, fieldWidth, unpackFrom, reportOfValues, setReportField]
  congr 2 <;> exact ofNat_getField_eq_slice hb (by decide)

theorem bodyDecode_of_length_le {b : List Byte} (hb : b.length ≤ 14) :
    bodyDecode airTrackLayout b = .error (.shortBuffer 117 (8 * b.length)) := by
  refine bodyDecode_of_error (unpack_of_short ?_)
  rw [totalBits_airTrackLayout, Config.bodyBits]
  omega

/-- Settles O45: the length test of `unpack` on 117 bits, and its fields as slices. -/
theorem bodyDecodeOutcomes : Obligations.BodyDecodeOutcomes :=
  fun _ => ⟨bodyDecode_of_length_le, bodyDecode_of_length_ge⟩

end Sys2Proof.Machine
end

-- ==== Proofs: FROMGEO's report, BENC and BDEC ====
section
/-!
PROOF. 42_airtrack_body.md R180, R183, R185, R187, R188 and R189: what `from_geo` builds, and the commands on the report
registers. `BENC` is `body_encode` on the registers, `BDEC` is `body_decode` on the buffer below `LEN`, and the buffer
holds exactly the bytes an encoding command wrote.
-/

namespace Sys2Proof.Machine

/-! ## `from_geo` -/

theorem fromGeo_of_codes {track spd hdg : BitVec 16} {lat lon alt a o h : Int} (hlat : qLat lat = .ok a)
    (hlon : qLon lon = .ok o) (halt : qAlt alt = .ok h) :
    fromGeo track lat lon alt spd hdg = .ok ⟨track, BitVec.ofInt 19 a, BitVec.ofInt 19 o, qTrk track, BitVec.ofInt 14 h,
      0, spd, hdg⟩ := by
  simp only [fromGeo, hlat, hlon, halt, qSpd, qHdg]

/-- A report of `from_geo` has the track it was given and the masked track as its number. -/
theorem track_of_fromGeo {track spd hdg : BitVec 16} {lat lon alt : Int} {r : Report}
    (h : fromGeo track lat lon alt spd hdg = .ok r) : r.track = track ∧ r.trackNumber = qTrk track := by
  unfold fromGeo at h
  split at h
  · cases h
  · split at h
    · cases h
    · split at h
      · cases h
      · cases h
        exact ⟨rfl, rfl⟩

/-- Settles O39: the three quantizers in their order, and the mask. -/
theorem fromGeoBuildsTheReport : Obligations.FromGeoBuildsTheReport := by
  refine fun track lat lon alt spd hdg => ⟨fun hlat hlat' hlon hlon' halt halt' => ?report, fun hlat => ?latitude,
    fun hlat hlat' hlon => ?longitude, fun hlat hlat' hlon hlon' halt => ?altitude⟩
  case report =>
    rw [fromGeo_of_codes (qLat_of_inside hlat hlat') (qLon_of_inside hlon hlon') (qAlt_of_inside halt halt'),
      qTrk_eq_extractLsb']
  case latitude => simp only [fromGeo, qLat_of_outside hlat]
  case longitude => simp only [fromGeo, qLat_of_inside hlat hlat', qLon_of_outside hlon]
  case altitude => simp only [fromGeo, qLat_of_inside hlat hlat', qLon_of_inside hlon hlon', qAlt_of_outside halt]

/-- Settles O50: decoding gives the report back; and the latitudes of 0 and of 1 unit share a code. -/
theorem bodyEncodeIsInjectiveFromGeoIsNot : Obligations.BodyEncodeIsInjectiveFromGeoIsNot :=
  ⟨fun _ _ => bodyEncode_injective, 0, 1, ⟨42, 262144, 262144, 42, 0, 0, 220, 271⟩, by decide, rfl, rfl⟩

/-! ## `BENC` -/

theorem exec_benc (s : State) :
    exec .benc s = .next (s.setEncoded (bodyEncode airTrackLayout (reportRegs s))).complete := rfl

/-- Settles O46: the fifteen bytes of the pattern, read back from the rewritten buffer. -/
theorem bencEncodesTheBody : Obligations.BencEncodesTheBody := by
  refine ⟨by decide, fun s => ⟨_, exec_benc s, ?frame, Memory.wf_ofBytes _, fun j => ?bytes⟩⟩
  case frame =>
    have hlen : (s.setEncoded (bodyEncode airTrackLayout (reportRegs s))).len = 15 := by
      rw [State.setEncoded_len, length_bodyEncode_airTrackLayout]
      rfl
    rw [← hlen]
    rfl
  case bytes =>
    rw [State.complete_buf, State.setEncoded_buf,
      read_ofBytes_of_length_le (by rw [length_bodyEncode_airTrackLayout]; decide), bodyEncode_eq_bodyPattern]
    split
    case isTrue hj => simp [hj, bodyPattern, reportRegs]
    case isFalse hj => exact List.getD_eq_default _ _ (by simpa using hj)

/-! ## `BDEC` -/

theorem readBuffer_of_len_le {s : State} (h : s.len.toNat ≤ 32) : readBuffer s = .ok (bufferBytes s) := if_pos h

theorem readBuffer_of_len_gt {s : State} (h : 32 < s.len.toNat) : readBuffer s = .error (.badOperand (.len s.len)) :=
  if_neg (Nat.not_le.mpr h)

/-- The buffer that an encoding command leaves is read as the bytes it wrote. -/
theorem readBuffer_setEncoded (s : State) {bytes : List Byte} (h : bytes.length ≤ 32) :
    readBuffer (s.setEncoded bytes).complete = .ok bytes := by
  have hlen : (s.setEncoded bytes).complete.len.toNat = bytes.length := by
    rw [State.complete_len, State.setEncoded_len, BitVec.toNat_ofNat]
    omega
  rw [readBuffer_of_len_le (by omega), bufferBytes, hlen, State.complete_buf, State.setEncoded_buf]
  refine congrArg _ (List.ext_getElem (by simp) fun i _ hi => ?_)
  rw [List.getElem_map, List.getElem_range, read_ofBytes_of_length_le h, List.getD_eq_getElem _ _ hi]

theorem exec_bdec_of_readError {s : State} {e : CmdError} (h : readBuffer s = .error e) :
    exec .bdec s = .next (s.raise e) := by
  rw [exec_bdec, h]
  rfl

theorem exec_bdec_of_decodeError {s : State} {b : List Byte} {e : CmdError} (hb : readBuffer s = .ok b)
    (h : bodyDecode airTrackLayout b = .error e) : exec .bdec s = .next (s.raise e) := by
  simp only [exec_bdec, hb, Except.bind, h, Except.map, commit_error]

theorem exec_bdec_of_report {s : State} {b : List Byte} {r : Report} (hb : readBuffer s = .ok b)
    (h : bodyDecode airTrackLayout b = .ok r) : exec .bdec s = .next (s.setReport r).complete := by
  simp only [exec_bdec, hb, Except.bind, h, Except.map, commit_ok]

/-- The first bytes below `LEN` as one number. -/
theorem bigEndianNumber_take_bufferBytes {s : State} {n : Nat} (h : n ≤ s.len.toNat) :
    bigEndianNumber ((bufferBytes s).take n) = bufNumber s.buf 0 n := by
  simp only [bufferBytes, bufNumber, ← List.map_take, List.take_range, Nat.min_eq_left h, Nat.zero_add]

/-- Settles O47: `body_decode` on the bytes below `LEN`, after the test of `LEN`. -/
theorem bdecDecodesTheBody : Obligations.BdecDecodesTheBody := by
  refine ⟨by decide, fun s => ⟨fun hlo hhi r hr => ?completes, fun hlen => ?len, fun hlen => ?short⟩⟩
  case completes =>
    subst hr
    rw [← bigEndianNumber_take_bufferBytes hlo]
    exact exec_bdec_of_report (readBuffer_of_len_le hhi) (bodyDecode_of_length_ge (by rwa [length_bufferBytes]))
  case len => exact exec_bdec_of_readError (readBuffer_of_len_gt hlen)
  case short =>
    rw [exec_bdec_of_decodeError (readBuffer_of_len_le (by omega))
      (bodyDecode_of_length_le (by rwa [length_bufferBytes])), length_bufferBytes]
    rfl

/-! ## `BENC` and then `BDEC` -/

/-- After `BENC`, `BDEC` writes the report registers with the report they hold. -/
theorem exec_bdec_after_benc (s : State) {t : State} (h : exec .benc s = .next t) :
    exec .bdec t = .next (t.setReport (reportRegs s)).complete := by
  rw [exec_benc, Host.Outcome.next.injEq] at h
  subst h
  have hlen : (bodyEncode airTrackLayout (reportRegs s)).length ≤ 32 := by
    rw [length_bodyEncode_airTrackLayout]
    decide
  have hdecode := bodyDecode_bodyEncode_append airTrackLayout_nodup mem_airTrackLayout (reportRegs s) []
  rw [List.append_nil] at hdecode
  exact exec_bdec_of_report (readBuffer_setEncoded s hlen) hdecode

/-- Settles O48: the round trips of the packer, and the buffer between the two commands. -/
theorem bodyRoundTrip : Obligations.BodyRoundTrip :=
  ⟨bodyDecode_bodyEncode_append airTrackLayout_nodup mem_airTrackLayout, fun _ _ => bodyEncode_of_bodyDecode,
    fun s => ⟨_, _, exec_benc s, exec_bdec_after_benc s (exec_benc s), rfl, rfl⟩⟩

/-! ## The masking law -/

/-- The masked track as a remainder. -/
theorem toNat_qTrk (t : BitVec 16) : (qTrk t).toNat = t.toNat % 4096 := by
  rw [qTrk_eq_extractLsb', BitVec.extractLsb'_toNat, Nat.shiftRight_zero]

/-- A `FROMGEO` that completes writes a report of `from_geo`. -/
theorem report_of_exec_fromgeo {s t : State} (h : exec .fromgeo s = .next t) (herr : t.err = 0) :
    ∃ r, geoReport s = .ok r ∧ t = (s.setReport r).complete := by
  rw [exec_fromgeo] at h
  cases hr : geoReport s with
  | ok r =>
    rw [hr] at h
    exact ⟨r, rfl, (Host.Outcome.next.inj h).symm⟩
  | error e =>
    rw [hr] at h
    cases h
    exact absurd herr (errorCode_ne_zero e)

/-- The report registers at track 0 and track number 1, which break the law. -/
def unmaskedState : State := { State.reset with trkn := 1 }

/-- Settles O43: the law is the mask of `q_trk`. Against it stand the registers of `unmaskedState`, which `BENC` and
`BDEC` reproduce, and a host write of 1 to `TRKN` at reset. -/
theorem trackNumberMaskingLaw : Obligations.TrackNumberMaskingLaw := by
  refine ⟨fun track spd hdg lat lon alt r h => ?fromGeo, fun s t h herr => ?fromgeo, fun s t h => ?qtrk, ?bdec, ?write⟩
  case fromGeo =>
    obtain ⟨htrack, hnumber⟩ := track_of_fromGeo h
    exact ⟨htrack, by rw [hnumber, toNat_qTrk]⟩
  case fromgeo =>
    obtain ⟨r, hr, rfl⟩ := report_of_exec_fromgeo h herr
    obtain ⟨htrack, hnumber⟩ := track_of_fromGeo hr
    rw [State.complete_trkn, State.complete_track, State.setReport_trkn, State.setReport_track, hnumber, htrack,
      toNat_qTrk]
  case qtrk =>
    cases h
    exact toNat_qTrk s.gtrack
  case bdec => exact ⟨_, _, exec_bdec_after_benc unmaskedState (exec_benc unmaskedState), rfl, by decide⟩
  case write => exact ⟨State.reset, unmaskedState, rfl, by decide⟩

end Sys2Proof.Machine
end

-- ==== Proofs: the envelope ====
section
/-!
PROOF. 43_envelope.md R211 to R213, R216 and R217: `env_encode` and `env_decode` over this hardware's registry, and the
two commands `MENC` and `MDEC`. With one entry in the registry the envelope is the body codec behind one tag byte, so
every outcome is an outcome of the body codec, or one of the two tests that come before it.
-/

namespace Sys2Proof.Machine

/-! ## `env_decode` over this hardware's registry -/

/-- Every tag but 0x32 is unregistered. -/
theorem envDecode_of_tag_ne {tag : Byte} (h : tag ≠ 0x32) (body : List Byte) :
    envDecode adsRegistry (tag :: body) = .error (.unsupportedKind tag) :=
  envDecode_of_none ((entryOfTag_adsRegistry tag).trans (if_neg h.symm)) body

/-- Behind the tag 0x32 stands a body. -/
theorem envDecode_of_airTrackTag (body : List Byte) :
    envDecode adsRegistry (0x32 :: body) = (bodyDecode airTrackLayout body).map MessageOf.airTrack :=
  envDecode_of_some (e := airTrackEntry airTrackLayout) rfl body

theorem envDecode_of_length_le {body : List Byte} (h : body.length ≤ 14) :
    envDecode adsRegistry (0x32 :: body) = .error (.shortBuffer 117 (8 * body.length)) := by
  rw [envDecode_of_airTrackTag, bodyDecode_of_length_le h]
  rfl

theorem envDecode_of_length_ge {body : List Byte} (h : 15 ≤ body.length) :
    envDecode adsRegistry (0x32 :: body) =
      .ok (.airTrack (reportAtBodyBits (BitVec.ofNat 120 (bigEndianNumber (body.take 15))))) := by
  rw [envDecode_of_airTrackTag, bodyDecode_of_length_ge h]
  rfl

/-- Settles O51: the empty sequence, the two answers of the registry, and under 0x32 the length test of the body. -/
theorem envelopeDecodeOutcomes : Obligations.EnvelopeDecodeOutcomes :=
  ⟨rfl, fun _ body h => envDecode_of_tag_ne h body, fun _ => envDecode_of_length_le, fun _ => envDecode_of_length_ge⟩

/-! ## The frame of a report -/

/-- The frame of a report: the tag and the body. -/
abbrev reportFrame (r : Report) : List Byte := envEncode adsRegistry (.airTrack r) airTrack_registered

@[simp] theorem length_reportFrame (r : Report) : (reportFrame r).length = 16 := by
  rw [reportFrame, envEncode_adsRegistry, List.length_cons, length_bodyEncode_airTrackLayout]

theorem envDecode_reportFrame_append (r : Report) (x : List Byte) :
    envDecode adsRegistry (reportFrame r ++ x) = .ok (.airTrack r) := by
  rw [reportFrame, envEncode_adsRegistry, List.cons_append, envDecode_of_airTrackTag,
    bodyDecode_bodyEncode_append airTrackLayout_nodup mem_airTrackLayout]
  rfl

/-- The frame's pattern is the tag's above the body's. -/
theorem frameBits_eq_append (r : Report) : frameBits r = 0x32#8 ++ bodyPattern r := by
  apply BitVec.eq_of_toNat_eq
  simp only [frameBits, bodyPattern, toNat_append_eq_add]
  ring

/-- The bytes of the frame's pattern, as the encoder of frames writes them, are those of `env_encode`. -/
theorem frameBytesOf_frameBits (r : Report) : frameBytesOf (frameBits r) = reportFrame r := by
  have htag : (0x32#8 ++ bodyPattern r).extractLsb' 120 8 = 0x32#8 := BitVec.extractLsb'_append_eq_left
  have hbody : ∀ j, (0x32#8 ++ bodyPattern r).extractLsb' (8 * (15 - (j + 1))) 8 =
      (bodyPattern r).extractLsb' (8 * (14 - j)) 8 := fun j => by
    rw [BitVec.extractLsb'_append_eq_of_add_le (by omega), Nat.sub_add_eq, Nat.sub_right_comm]
  rw [reportFrame, envEncode_adsRegistry, bodyEncode_eq_bodyPattern, frameBytesOf, frameBits_eq_append,
    List.range_succ_eq_map, List.map_cons, List.map_map]
  exact congrArg₂ List.cons htag (List.map_congr_left fun j _ => hbody j)

/-! ## `MENC` -/

theorem exec_menc_of_airTrackKind {s : State} (h : s.kind = 0x32) :
    exec .menc s = .next (s.setEncoded (reportFrame (reportRegs s))).complete := by
  rw [exec_menc, h]
  rfl

theorem exec_menc_of_kind_ne {s : State} (h : s.kind ≠ 0x32) :
    exec .menc s = .next (s.raise (.unsupportedKind s.kind)) := by
  rw [exec_menc, encodedFrame, entryOfTag_adsRegistry, if_neg h.symm]
  rfl

/-- Settles O52: the sixteen bytes of the frame's pattern, read back from the rewritten buffer. -/
theorem mencEncodesTheFrame : Obligations.MencEncodesTheFrame := by
  refine ⟨by decide, fun s => ⟨fun hkind => ?completes, exec_menc_of_kind_ne⟩⟩
  case completes =>
    refine ⟨_, exec_menc_of_airTrackKind hkind, ?frame, Memory.wf_ofBytes _, fun j => ?bytes⟩
    case frame =>
      have hlen : (s.setEncoded (reportFrame (reportRegs s))).len = 16 := by
        rw [State.setEncoded_len, length_reportFrame]
        rfl
      rw [← hlen]
      rfl
    case bytes =>
      rw [State.complete_buf, State.setEncoded_buf,
        read_ofBytes_of_length_le (by rw [length_reportFrame]; decide), ← frameBytesOf_frameBits]
      split
      case isTrue hj => simp [hj, frameBytesOf, frameBits, reportRegs]
      case isFalse hj => exact List.getD_eq_default _ _ (by simpa [frameBytesOf] using hj)

/-! ## `MDEC` -/

theorem exec_mdec_of_readError {s : State} {e : CmdError} (h : readBuffer s = .error e) :
    exec .mdec s = .next (s.raise e) := by
  rw [exec_mdec, h]
  rfl

theorem exec_mdec_of_decodeError {s : State} {b : List Byte} {e : CmdError} (hb : readBuffer s = .ok b)
    (h : envDecode adsRegistry b = .error e) : exec .mdec s = .next (s.raise e) := by
  simp only [exec_mdec, hb, Except.bind, h, Except.map, commit_error]

theorem exec_mdec_of_report {s : State} {b : List Byte} {r : Report} (hb : readBuffer s = .ok b)
    (h : envDecode adsRegistry b = .ok (.airTrack r)) : exec .mdec s = .next (s.setMessage 0x32 r).complete := by
  rw [exec_mdec, hb, Except.bind, h]
  rfl

/-- The bytes of `BUF` from address 1 to below `LEN`: what stands behind the tag. -/
def bytesAfterTag (s : State) : List Byte := (List.range (s.len.toNat - 1)).map fun j => s.buf.read (1 + j)

@[simp] theorem length_bytesAfterTag (s : State) : (bytesAfterTag s).length = s.len.toNat - 1 := by
  simp [bytesAfterTag]

theorem readBuffer_of_len_zero {s : State} (h : s.len.toNat = 0) : readBuffer s = .ok [] := by
  rw [readBuffer_of_len_le (by omega), bufferBytes, h]
  rfl

theorem readBuffer_eq_cons {s : State} (hlo : 1 ≤ s.len.toNat) (hhi : s.len.toNat ≤ 32) :
    readBuffer s = .ok (s.buf.read 0 :: bytesAfterTag s) := by
  have hsucc : s.len.toNat = s.len.toNat - 1 + 1 := by omega
  rw [readBuffer_of_len_le hhi, bufferBytes, hsucc, List.range_succ_eq_map, List.map_cons, List.map_map, bytesAfterTag]
  exact congrArg (fun bs => Except.ok (s.buf.read 0 :: bs))
    (List.map_congr_left fun j _ => congrArg s.buf.read (Nat.add_comm j 1))

/-- The first bytes behind the tag as one number. -/
theorem bigEndianNumber_take_bytesAfterTag {s : State} {n : Nat} (h : n ≤ s.len.toNat - 1) :
    bigEndianNumber ((bytesAfterTag s).take n) = bufNumber s.buf 1 n := by
  simp only [bytesAfterTag, bufNumber, ← List.map_take, List.take_range, Nat.min_eq_left h]

/-- Settles O53: the test of `LEN`, and then the outcomes of `env_decode` on the bytes below `LEN`. -/
theorem mdecDecodesTheFrame : Obligations.MdecDecodesTheFrame := by
  refine ⟨by decide, fun s => ⟨fun htag hlo hhi r hr => ?completes, fun hlen => ?len, fun hlen => ?empty,
    fun hlo hhi htag => ?kind, fun hlo hhi htag => ?short⟩⟩
  case completes =>
    have hread := readBuffer_eq_cons (s := s) (by omega) hhi
    rw [htag] at hread
    subst hr
    rw [← bigEndianNumber_take_bytesAfterTag (by omega)]
    exact exec_mdec_of_report hread (envDecode_of_length_ge (by rw [length_bytesAfterTag]; omega))
  case len => exact exec_mdec_of_readError (readBuffer_of_len_gt hlen)
  case empty => exact exec_mdec_of_decodeError (readBuffer_of_len_zero hlen) rfl
  case kind => exact exec_mdec_of_decodeError (readBuffer_eq_cons hlo hhi) (envDecode_of_tag_ne htag _)
  case short =>
    have hread := readBuffer_eq_cons hlo (by omega)
    rw [htag] at hread
    rw [exec_mdec_of_decodeError hread (envDecode_of_length_le (by rw [length_bytesAfterTag]; omega)),
      length_bytesAfterTag]
    rfl

/-! ## `MENC` and then `MDEC` -/

/-- After a `MENC` that completes, `MDEC` writes `KIND` and the report registers with what they hold. -/
theorem exec_mdec_after_menc {s t : State} (hkind : s.kind = 0x32) (h : exec .menc s = .next t) :
    exec .mdec t = .next (t.setMessage 0x32 (reportRegs s)).complete := by
  rw [exec_menc_of_airTrackKind hkind, Host.Outcome.next.injEq] at h
  subst h
  have hdecode := envDecode_reportFrame_append (reportRegs s) []
  rw [List.append_nil] at hdecode
  exact exec_mdec_of_report (readBuffer_setEncoded s (by rw [length_reportFrame]; decide)) hdecode

/-- Settles O54: the round trip of the body behind its tag, and the buffer between the two commands. -/
theorem frameRoundTrip : Obligations.FrameRoundTrip :=
  ⟨fun r => ⟨length_reportFrame r, envDecode_reportFrame_append r⟩,
    fun _ hkind => ⟨_, _, exec_menc_of_airTrackKind hkind,
      exec_mdec_after_menc hkind (exec_menc_of_airTrackKind hkind), rfl, hkind.symm, rfl⟩⟩

end Sys2Proof.Machine
end

-- ==== Proofs: the host port and the system commands ====
section
/-!
PROOF. 44_system_host.md R230 to R233. The register map is a two-way map between offsets and registers, so every claim
about an access at an offset is a claim about the register there, and the two accesses obey the laws of a store: a read
gives what was last written to the same register, and a write leaves every other register alone.
-/

namespace Sys2Proof.Machine

/-! ## The offsets without a register -/

theorem not_unmapped_hostOffset (r : HostReg) : ¬ Unmapped (hostOffset r) := by
  cases r with
  | v i | w i | buf i => simp only [Unmapped, hostOffset]; omega
  | _ => decide

theorem hostRegAt_of_unmapped {offset : Nat} (h : Unmapped offset) : hostRegAt offset = none := by
  cases hreg : hostRegAt offset with
  | none => rfl
  | some r => exact absurd (hostRegAt_eq_some.mp hreg ▸ h) (not_unmapped_hostOffset r)

/-! ## Host reads -/

@[simp] theorem hostRead_hostOffset (s : State) (r : HostReg) : hostRead s (hostOffset r) = readHostReg s r := by
  rw [hostRead, hostRegAt_hostOffset]

theorem hostRead_of_unmapped (s : State) {offset : Nat} (h : Unmapped offset) : hostRead s offset = 0 := by
  rw [hostRead, hostRegAt_of_unmapped h]

/-- Settles O18: the read of each register, at the offset of that register. -/
theorem hostReadsTheRegisterMap : Obligations.HostReadsTheRegisterMap := fun s =>
  have read := hostRead_hostOffset s
  ⟨read .cmd, read .status, read .einfo0, read .einfo1, read .nf, read .len, read .kind, read .gtrack, read .glat,
    read .glon, read .galt, read .gspd, read .ghdg, read .track, read .latp, read .lonp, read .trkn, read .altp,
    read .par, read .spd, read .hdg, fun i => read (.v i), fun i => read (.w i), fun i => read (.buf i),
    fun _ => hostRead_of_unmapped s⟩

/-! ## A register after a write -/

/-- A register of `n` bits keeps the low `n` bits of the data, and the port extends them with zeros (10_state.md R33). -/
theorem toNat_setWidth_setWidth {n : Nat} (hn : n ≤ 32) (d : Word) :
    ((d.setWidth n).setWidth 32).toNat = d.toNat % 2 ^ n := by
  rw [BitVec.toNat_setWidth_of_le hn, BitVec.toNat_setWidth]

theorem readHostReg_writeHostReg_same {r : HostReg} (h : hostAccess r = .readWrite) (s : State) (d : Word) :
    (readHostReg (writeHostReg s d r) r).toNat = d.toNat % 2 ^ hostWidth r := by
  have hword : d.toNat = d.toNat % 2 ^ 32 := (Nat.mod_eq_of_lt d.isLt).symm
  cases r with
  | cmd | status | einfo0 | einfo1 => cases h
  | nf | len | glat | glon | galt => exact hword
  | v i | w i =>
    simp only [readHostReg, writeHostReg, hostWidth, Fin.getElem_fin, Vector.getElem_set_self]
    exact hword
  | buf i =>
    simp only [readHostReg, writeHostReg, Memory.read_write_same]
    exact toNat_setWidth_setWidth (by decide) d
  | _ => exact toNat_setWidth_setWidth (by decide) d

/-- Distinct registers are distinct fields of the state, distinct entries of a table, or distinct bytes of the buffer. -/
theorem readHostReg_writeHostReg_other {r q : HostReg} (h : q ≠ r) (s : State) (d : Word) :
    readHostReg (writeHostReg s d r) q = readHostReg s q := by
  cases r with
  | v i =>
    cases q with
    | v j =>
      have hne : i.val ≠ j.val := fun he => h (congrArg HostReg.v (Fin.ext he.symm))
      exact Vector.getElem_set_ne i.isLt j.isLt hne
    | _ => rfl
  | w i =>
    cases q with
    | w j =>
      have hne : i.val ≠ j.val := fun he => h (congrArg HostReg.w (Fin.ext he.symm))
      exact Vector.getElem_set_ne i.isLt j.isLt hne
    | _ => rfl
  | buf i =>
    cases q with
    | buf j =>
      have hne : j.val ≠ i.val := fun he => h (congrArg HostReg.buf (Fin.ext he))
      exact congrArg (BitVec.setWidth 32) (Memory.read_write_other s.buf i (d.setWidth 8) hne)
    | _ => rfl
  | _ => cases q <;> first | contradiction | rfl

/-! ## Host writes -/

theorem hostWrite_cmd (d : Word) (s : State) : hostWrite (hostOffset .cmd) d s = execute d s := by
  rw [hostWrite, hostRegAt_hostOffset]

theorem hostWrite_of_ne_cmd {r : HostReg} (h : r ≠ .cmd) (d : Word) (s : State) :
    hostWrite (hostOffset r) d s = .next (writeHostReg s d r) := by
  rw [hostWrite, hostRegAt_hostOffset]
  cases r with
  | cmd => contradiction
  | _ => rfl

theorem hostWrite_of_unmapped {offset : Nat} (h : Unmapped offset) (d : Word) (s : State) :
    hostWrite offset d s = .next s := by
  rw [hostWrite, hostRegAt_of_unmapped h]

/-- A write to one register is not seen by a read at any other offset, mapped or not. -/
theorem hostRead_writeHostReg_other {r : HostReg} {offset : Nat} (h : offset ≠ hostOffset r) (s : State) (d : Word) :
    hostRead (writeHostReg s d r) offset = hostRead s offset := by
  simp only [hostRead]
  cases hreg : hostRegAt offset with
  | none => rfl
  | some q =>
    have hne : q ≠ r := fun he => h (he ▸ (hostRegAt_eq_some.mp hreg).symm)
    exact readHostReg_writeHostReg_other hne s d

/-- Settles O19: the three kinds of offset, and for a register the two laws of a store. -/
theorem hostWriteStoresTheLowBits : Obligations.HostWriteStoresTheLowBits := by
  refine fun s d => ⟨hostWrite_cmd d s, fun r hr => ?readWrite, fun offset hoffset => ?noEffect⟩
  case readWrite =>
    have hcmd : r ≠ .cmd := by rintro rfl; cases hr
    refine ⟨writeHostReg s d r, hostWrite_of_ne_cmd hcmd d s, ?_, fun _ hother => hostRead_writeHostReg_other hother s d⟩
    rw [hostRead_hostOffset]
    exact readHostReg_writeHostReg_same hr s d
  case noEffect =>
    rcases hoffset with hreadOnly | hunmapped
    · simp only [List.mem_cons, List.not_mem_nil, or_false] at hreadOnly
      rcases hreadOnly with rfl | rfl | rfl
      · exact hostWrite_of_ne_cmd (r := .status) (by decide) d s
      · exact hostWrite_of_ne_cmd (r := .einfo0) (by decide) d s
      · exact hostWrite_of_ne_cmd (r := .einfo1) (by decide) d s
    · exact hostWrite_of_unmapped hunmapped d s

/-! ## `NOP` and `CLR` -/

theorem exec_nop (s : State) : exec .nop s = .next s.complete := commit_ok s s

theorem exec_clr (s : State) : exec .clr s = .next s.toReset.complete := commit_ok s s.toReset

/-- The error registers of the reset state already say that nothing went wrong, so completing adds nothing to a reset. -/
theorem coreState_toReset_complete (s : State) : s.toReset.complete.coreState = State.reset := rfl

/-- Settles O2: `NOP` is a completion with no writes of its own. -/
theorem nopClearsOnlyTheErrorRegisters : Obligations.NopClearsOnlyTheErrorRegisters :=
  ⟨by decide, exec_nop⟩

/-- Settles O3: `CLR` is a completion of the reset. -/
theorem clrLeavesTheResetState : Obligations.ClrLeavesTheResetState :=
  ⟨by decide, fun s => ⟨_, exec_clr s, coreState_toReset_complete s⟩⟩

end Sys2Proof.Machine
end

-- ==== Proofs: words that are no command ====
section
/-!
PROOF. 30_encoding.md R90 to R92 and 60_exceptions.md R254. A word with `zero` clear is its opcode, widened, and the
opcode map names only opcodes of the thirteen words; so the decoder refuses every other word, and it refuses with the
word itself. Executing such a word is then the taking of that exception.
-/

namespace Sys2Proof.Machine

/-- With `zero` clear, a command word is its opcode and nothing more. -/
theorem setWidth_commandOpcode {c : Word} (hzero : commandZero c = 0) : (commandOpcode c).setWidth 32 = c := by
  have hhigh : (commandZero c).toNat = 0 := by rw [hzero]; rfl
  apply BitVec.eq_of_toNat_eq
  simp only [commandZero, commandOpcode, BitVec.toNat_setWidth, BitVec.extractLsb'_toNat,
    Nat.shiftRight_eq_div_pow] at *
  omega

/-- The opcode map names no opcode but those of the thirteen words. -/
theorem setWidth_mem_commandWords {opcode : Byte} {i : Instr} (h : commandOfOpcode opcode = some i) :
    opcode.setWidth 32 ∈ commandWords := by
  unfold commandOfOpcode at h
  split at h
  case h_14 => contradiction
  all_goals decide

theorem mem_commandWords_of_decodeCommand_ok {c : Word} {i : Instr} (h : decodeCommand c = .ok i) :
    c ∈ commandWords := by
  unfold decodeCommand at h
  split at h
  · rename_i hzero
    split at h
    · rename_i hopcode
      exact setWidth_commandOpcode hzero ▸ setWidth_mem_commandWords hopcode
    · contradiction
  · contradiction

/-- The only refusal of the decoder of command words is IllegalCommand, with the word it was given. -/
theorem decodeCommand_error {c : Word} {e : CmdError} (h : decodeCommand c = .error e) : e = .illegalCommand c := by
  unfold decodeCommand at h
  split at h
  · split at h
    · contradiction
    · exact (Except.error.inj h).symm
  · exact (Except.error.inj h).symm

theorem decode_command_of_not_mem {c : Word} (h : c ∉ commandWords) :
    decode (.command c) = .error (.illegalCommand c) := by
  change decodeCommand c = _
  cases hdecode : decodeCommand c with
  | ok i => exact absurd (mem_commandWords_of_decodeCommand_ok hdecode) h
  | error e => rw [decodeCommand_error hdecode]

theorem execute_of_decode_error {c : Word} {e : CmdError} (h : decode (.command c) = .error e) (s : State) :
    execute c s = .next (s.raise e) := by
  simp only [execute, h, commit_error]

/-- Settles O12: the decoder refuses the word, and taking IllegalCommand writes exactly the three registers. -/
theorem illegalCommandRaises : Obligations.IllegalCommandRaises :=
  fun _ s hc => execute_of_decode_error (decode_command_of_not_mem hc) s

end Sys2Proof.Machine
end

-- ==== Proofs: reset and the field table ====
section
/-!
PROOF. 70_reset_and_hazards.md R290 and R295. That a command ignores the field table is one commutation: exchanging the
table before the command is exchanging it after. That the command leaves the table alone is then the case of the exchange
that puts back the table that was there.
-/

namespace Sys2Proof.Machine

/-! ## The reset state -/

theorem State.reset_v_get (i : Fin 8) : State.reset.v[i] = 0 := Vector.getElem_replicate i.isLt

theorem State.reset_w_get (i : Fin 8) : State.reset.w[i] = 0 := Vector.getElem_replicate i.isLt

/-- Settles O1: each scalar register is given as 0, the two register files are replicated zeros and the buffer lists no
byte. -/
theorem resetStateIsAllZero : Obligations.ResetStateIsAllZero := by
  refine ⟨rfl, rfl, rfl, rfl, rfl, rfl, State.reset_v_get, State.reset_w_get, ?scalars⟩
  case scalars =>
    iterate 14 refine ⟨rfl, ?_⟩
    exact Memory.read_nil

/-! ## The field table -/

/-- The state with another field table. -/
def State.withFieldTable (s : State) (nf : Word) (v w : Vector Word 8) : State :=
  { s with nf := nf, v := v, w := w }

theorem State.complete_withFieldTable (s : State) (nf : Word) (v w : Vector Word 8) :
    (s.withFieldTable nf v w).complete = s.complete.withFieldTable nf v w := rfl

theorem State.raise_withFieldTable (s : State) (e : CmdError) (nf : Word) (v w : Vector Word 8) :
    (s.withFieldTable nf v w).raise e = (s.raise e).withFieldTable nf v w := rfl

/-- Exchanging the field table before the instruction is exchanging it after. -/
def IgnoresFieldTable (i : Instr) : Prop :=
  ∀ (s : State) (nf : Word) (v w : Vector Word 8),
    ∃ t, exec i s = .next t ∧ exec i (s.withFieldTable nf v w) = .next (t.withFieldTable nf v w)

/-- An instruction that ignores the field table does not write it: running it with the table that is there ends with that
table. -/
theorem IgnoresFieldTable.keeps {i : Instr} (hi : IgnoresFieldTable i) {s t : State} (h : exec i s = .next t) :
    t.nf = s.nf ∧ t.v = s.v ∧ t.w = s.w := by
  obtain ⟨u, hu, hsame⟩ := hi s s.nf s.v s.w
  have hput : t = u.withFieldTable s.nf s.v s.w := Host.Outcome.next.inj (h.symm.trans hsame)
  subst hput
  exact ⟨rfl, rfl, rfl⟩

/-- An instruction that puts one computed value ignores the field table when the value does not depend on the table and the
putting commutes with an exchange of it. The two ends of a command commute with it in any case. -/
theorem ignoresFieldTable_of_commit {α : Type} {i : Instr} {value : State → Except CmdError α}
    {put : State → α → State} (hexec : ∀ s, exec i s = commit s ((value s).map (put s)))
    (hvalue : ∀ s nf v w, value (s.withFieldTable nf v w) = value s)
    (hput : ∀ s x nf v w, put (s.withFieldTable nf v w) x = (put s x).withFieldTable nf v w) :
    IgnoresFieldTable i := by
  intro s nf v w
  rw [hexec, hexec, hvalue]
  cases value s with
  | error e => exact ⟨s.raise e, rfl, congrArg Host.Outcome.next (State.raise_withFieldTable s e nf v w)⟩
  | ok x =>
    refine ⟨(put s x).complete, rfl, ?_⟩
    simp only [Except.map, commit_ok, hput, State.complete_withFieldTable]

theorem benc_ignoresFieldTable : IgnoresFieldTable .benc :=
  ignoresFieldTable_of_commit (value := fun s => .ok (bodyEncode airTrackLayout (reportRegs s)))
    (put := State.setEncoded) (fun _ => rfl) (fun _ _ _ _ => rfl) (fun _ _ _ _ _ => rfl)

theorem bdec_ignoresFieldTable : IgnoresFieldTable .bdec :=
  ignoresFieldTable_of_commit exec_bdec (fun _ _ _ _ => rfl) (fun _ _ _ _ _ => rfl)

theorem menc_ignoresFieldTable : IgnoresFieldTable .menc :=
  ignoresFieldTable_of_commit exec_menc (fun _ _ _ _ => rfl) (fun _ _ _ _ _ => rfl)

theorem mdec_ignoresFieldTable : IgnoresFieldTable .mdec :=
  ignoresFieldTable_of_commit exec_mdec (fun _ _ _ _ => rfl) (fun _ ⟨.airTrack, _⟩ _ _ _ => rfl)

/-- Settles O57: each of the four commands commutes with an exchange of the field table. -/
theorem bodyCommandsIgnoreTheFieldTable : Obligations.BodyCommandsIgnoreTheFieldTable := by
  intro i hi s nf v w
  have hignores : IgnoresFieldTable i := by
    simp only [List.mem_cons, List.not_mem_nil, or_false] at hi
    obtain rfl | rfl | rfl | rfl := hi
    · exact benc_ignoresFieldTable
    · exact bdec_ignoresFieldTable
    · exact menc_ignoresFieldTable
    · exact mdec_ignoresFieldTable
  obtain ⟨t, ht, hother⟩ := hignores s nf v w
  obtain ⟨hnf, hv, hw⟩ := hignores.keeps ht
  exact ⟨t, ht, hnf, hv, hw, hother⟩

end Sys2Proof.Machine
end

-- ==== Proofs: decoding and encoding agree ====
section
/-!
PROOF. 30_encoding.md R91, R92, R96 and R98, and the round trip of 42_airtrack_body.md R187 over every layout. The thirteen
words are the encodings of the thirteen commands, so what the decoder does on them follows from its doing the opposite
of the encoder. On frames it is the round trip of the body codec, and `unpack` reads none of the bits behind the last
field.
-/

namespace Sys2Proof.Machine

/-! ## Every layout -/

/-- A well-formed layout has eight distinct fields, so it has all of them. -/
theorem mem_of_layout_wf {layout : Layout} (h : layout.wf = true) (n : FieldName) : n ∈ layout := by
  simp only [Layout.wf, Bool.and_eq_true, beq_iff_eq, decide_eq_true_eq] at h
  obtain ⟨hlength, hnodup⟩ := h
  have hsub : layout ⊆ airTrackLayout := fun m _ => mem_airTrackLayout m
  have hperm := (hnodup.subperm hsub).perm_of_length_le (Nat.le_of_eq hlength.symm)
  exact hperm.mem_iff.mpr (mem_airTrackLayout n)

/-- Settles O49: the round trip of the body codec asks of the layout only that it has every field and repeats none. -/
theorem everyLayoutRoundTrips : Obligations.EveryLayoutRoundTrips := by
  intro layout hwf
  have hnodup : layout.Nodup := of_decide_eq_true (Bool.and_eq_true_iff.mp hwf).2
  exact bodyDecode_bodyEncode_append hnodup (mem_of_layout_wf hwf)

/-! ## Decoding what was encoded -/

/-- The decoder of frames gives the report of the message that the envelope decoder gives. -/
theorem decode_frame_of_report {bytes : List Byte} {r : Report} (h : envDecode adsRegistry bytes = .ok (.airTrack r)) :
    decode (.frame bytes) = .ok (.msgAirtrack r) := by
  simp only [decode, decodeFrame, h]

/-- An instruction decoded from a frame is the air-track message that the envelope decoder gives. -/
theorem report_of_decode_frame {bytes : List Byte} {i : Instr} (h : decode (.frame bytes) = .ok i) :
    ∃ r, i = .msgAirtrack r ∧ envDecode adsRegistry bytes = .ok (.airTrack r) := by
  cases hm : envDecode adsRegistry bytes with
  | error e => simp [decode, decodeFrame, hm] at h
  | ok m =>
    obtain ⟨⟨⟩, r⟩ := m
    exact ⟨r, (Except.ok.inj ((decode_frame_of_report hm).symm.trans h)).symm, rfl⟩

/-- Every instruction comes back from its encoding: a command from its row of the opcode map, a frame from the round trip
of the envelope. -/
theorem decode_encode (i : Instr) : decode (encode i) = .ok i := by
  cases i with
  | msgAirtrack r =>
    rw [encode, frameBytesOf_frameBits]
    have hdecode := envDecode_reportFrame_append r []
    rw [List.append_nil] at hdecode
    exact decode_frame_of_report hdecode
  | _ => rfl

/-- Settles O6: every instruction carries legal fields, so well-formedness asks for nothing more. -/
theorem decodeEncodeAgree : Obligations.DecodeEncodeAgree := fun i _ => decode_encode i

/-! ## The thirteen words -/

/-- The opcode map, written out: the thirteen commands and their words in the same order. -/
theorem map_encode_commands : commands.map encode = commandWords.map .command := rfl

theorem exists_command_of_mem_commandWords {c : Word} (h : c ∈ commandWords) : ∃ i ∈ commands, encode i = .command c := by
  have hmem : Encoding.command c ∈ commands.map encode := map_encode_commands ▸ List.mem_map_of_mem h
  exact List.mem_map.mp hmem

/-- Settles O5: a word of the thirteen is the encoding of a command, which decodes to it. -/
theorem commandWordsDecodeExactly : Obligations.CommandWordsDecodeExactly := by
  refine fun c => ⟨decode_command_of_not_mem, fun hmem => ?_⟩
  obtain ⟨i, -, hi⟩ := exists_command_of_mem_commandWords hmem
  exact ⟨i, hi ▸ decode_encode i, hi⟩

/-- The thirteen words decode to the thirteen commands. -/
theorem map_decode_commandWords :
    (commandWords.map fun c => (decode (.command c)).toOption) = commands.map some := by
  have hmap : (commandWords.map fun c => (decode (.command c)).toOption) =
      (commands.map encode).map fun e => (decode e).toOption := by
    rw [map_encode_commands, List.map_map]
    rfl
  rw [hmap, List.map_map]
  exact List.map_congr_left fun i _ => congrArg Except.toOption (decode_encode i)

/-- Settles O4: the thirteen words are encodings, the scenario's bytes are the frame of its report, and the other two words
are not of the thirteen. -/
theorem knownWordsDecode : Obligations.KnownWordsDecode := by
  refine ⟨map_decode_commandWords, ?frame, ?reserved, ?highBit⟩
  case frame =>
    have hencode : encode (.msgAirtrack ⟨42, 393575, 83030, 42, 197, 0, 220, 271⟩) =
        .frame [0x32, 0x00, 0x2A, 0xC0, 0x2C, 0xE5, 0x11, 0x58, 0x0A, 0x80, 0xC5, 0x00, 0x06, 0xE0, 0x08, 0x78] := by
      decide
    rw [← hencode, decode_encode]
    rfl
  case reserved => rw [decode_command_of_not_mem (by decide)]; rfl
  case highBit => rw [decode_command_of_not_mem (by decide)]; rfl

/-! ## Padding and trailing bytes -/

/-- The fifteen bytes of a 120-bit pattern, its most significant byte first. -/
def bodyBytesOf (y : BitVec 120) : List Byte := (List.range 15).map fun j => y.extractLsb' (8 * (14 - j)) 8

theorem bodyBytesOf_bodyPattern (r : Report) : bodyBytesOf (bodyPattern r) = bodyEncode airTrackLayout r :=
  (bodyEncode_eq_bodyPattern r).symm

@[simp] theorem length_bodyBytesOf (y : BitVec 120) : (bodyBytesOf y).length = 15 := by simp [bodyBytesOf]

/-- Stream bit 0 of a body is the most significant bit of its pattern. -/
theorem streamBit_bodyBytesOf (y : BitVec 120) {k : Nat} (h : k < 120) :
    streamBit (bodyBytesOf y) k = y.getLsbD (119 - k) := by
  rw [show bodyBytesOf y = bigEndianBytes 15 y.toNat from rfl, streamBit_bigEndianBytes _ (by omega),
    BitVec.testBit_toNat]

/-- The first byte of a frame's pattern is its top eight bits, the others are those of the body's pattern. -/
theorem frameBytesOf_append (tag : Byte) (y : BitVec 120) : frameBytesOf (tag ++ y) = tag :: bodyBytesOf y := by
  have htag : (tag ++ y).extractLsb' 120 8 = tag := BitVec.extractLsb'_append_eq_left
  have hbody : ∀ j, (tag ++ y).extractLsb' (8 * (15 - (j + 1))) 8 = y.extractLsb' (8 * (14 - j)) 8 := fun j => by
    rw [BitVec.extractLsb'_append_eq_of_add_le (by omega), Nat.sub_add_eq, Nat.sub_right_comm]
  rw [frameBytesOf, List.range_succ_eq_map, List.map_cons, List.map_map]
  exact congrArg₂ List.cons htag (List.map_congr_left fun j _ => hbody j)

/-- Padding put into the low bits of a frame's pattern goes to the low bits of its body's pattern. -/
theorem frameBits_or_padding (r : Report) (padding : BitVec 3) :
    frameBits r ||| padding.setWidth 128 = 0x32#8 ++ (bodyPattern r ||| padding.setWidth 120) := by
  rw [frameBits_eq_append]
  refine BitVec.eq_of_getLsbD_eq fun j hj => ?_
  simp only [BitVec.getLsbD_or, BitVec.getLsbD_append, BitVec.getLsbD_setWidth]
  by_cases hbody : j < 120
  · simp [hbody, hj]
  · simp [hbody, BitVec.getLsbD_of_ge padding j (by omega)]

/-- Two byte sequences of at least fifteen bytes that agree on the 117 field bits are bodies of one report. -/
theorem bodyDecode_congr {b b' : List Byte} (hb : 15 ≤ b.length) (hb' : 15 ≤ b'.length)
    (h : ∀ k, k < 117 → streamBit b k = streamBit b' k) : bodyDecode airTrackLayout b = bodyDecode airTrackLayout b' := by
  have htotal : totalBits (airTrackLayout.map fieldWidth) = 117 := totalBits_airTrackLayout
  rw [bodyDecode, bodyDecode,
    unpackReadsOnlyTheNeededBits b b' _ (by omega) (by omega) fun k hk => h k (by omega)]

theorem bodyDecode_padded (r : Report) (padding : BitVec 3) (trailer : List Byte) :
    bodyDecode airTrackLayout (bodyBytesOf (bodyPattern r ||| padding.setWidth 120) ++ trailer) = .ok r := by
  rw [← bodyDecode_bodyEncode_append airTrackLayout_nodup mem_airTrackLayout r trailer, ← bodyBytesOf_bodyPattern]
  refine bodyDecode_congr (by simp) (by simp) fun k hk => ?_
  rw [streamBit_append_left _ _ (by rw [length_bodyBytesOf]; omega),
    streamBit_append_left _ _ (by rw [length_bodyBytesOf]; omega), streamBit_bodyBytesOf _ (by omega),
    streamBit_bodyBytesOf _ (by omega), BitVec.getLsbD_or, BitVec.getLsbD_setWidth,
    BitVec.getLsbD_of_ge padding _ (by omega), Bool.and_false, Bool.or_false]

/-- Settles O7: the padding lies behind the 117 field bits, and so does what follows the frame. -/
theorem framePaddingAndTrailerAreIgnored : Obligations.FramePaddingAndTrailerAreIgnored := by
  intro r padding trailer
  rw [frameBits_or_padding, frameBytesOf_append, List.cons_append]
  apply decode_frame_of_report
  change envDecode adsRegistry (0x32 :: _) = _
  rw [envDecode_of_airTrackTag, bodyDecode_padded]
  rfl

end Sys2Proof.Machine
end

-- ==== Proofs: what every instruction and every step does ====
section
/-!
PROOF. 00_scope.md R11, 10_state.md R27, 44_system_host.md R235 and 60_exceptions.md R251 to R261. Every instruction
computes one value and puts it into its registers, and neither depends on the error registers; when there is no value it
raises one of the six errors with arguments in their ranges. The first part says which errors the operands and the
functional layer give, the second brings the fourteen instructions into this one form, and the third does the same for the
events of a step. The claims about all instructions and all steps are then read off the form.
-/

namespace Sys2Proof.Machine

/-! ## The errors -/

/-- Taking the error leaves a legal record in the error registers. -/
def LegalError (e : CmdError) : Prop := ∀ s : State, ErrorRecordOk (s.raise e)

theorem legalError_shortBuffer {needed available : Nat} (hshort : available < needed) (hmax : needed ≤ 256)
    (hbytes : available % 8 = 0) : LegalError (.shortBuffer needed available) := by
  have hneeded : (BitVec.ofNat 32 needed).toNat = needed := Nat.mod_eq_of_lt (by omega)
  have havailable : (BitVec.ofNat 32 available).toNat = available := Nat.mod_eq_of_lt (by omega)
  exact fun _ => .inr <| .inl ⟨rfl, by simpa [errorInfo0, errorInfo1, hneeded, havailable] using ⟨hshort, hmax, hbytes⟩⟩

theorem legalError_unsupportedKind {tag : Byte} (h : tag ≠ 0x32) : LegalError (.unsupportedKind tag) := by
  have htag : (tag.setWidth 32).toNat = tag.toNat := BitVec.toNat_setWidth_of_le (by decide)
  have hne : tag.setWidth 32 ≠ 0x32#32 := fun he => by
    have hvalue : (tag.setWidth 32).toNat = 0x32 := congrArg BitVec.toNat he
    exact h (BitVec.eq_of_toNat_eq (htag.symm.trans hvalue))
  have hlt : (tag.setWidth 32).toNat < 256 := htag ▸ tag.isLt
  exact fun _ => .inr <| .inr <| .inl ⟨rfl, hlt, hne, rfl⟩

theorem legalError_quantizationOverflow (f : GeoField) : LegalError (.quantizationOverflow f) := by
  have hnumber : 1 ≤ (geoFieldNumber f).toNat ∧ (geoFieldNumber f).toNat ≤ 3 := by cases f <;> decide
  exact fun _ => .inr <| .inr <| .inr <| .inl ⟨rfl, hnumber.1, hnumber.2, rfl⟩

theorem legalError_illegalCommand {c : Word} (h : c ∉ commandWords) : LegalError (.illegalCommand c) :=
  fun _ => .inr <| .inr <| .inr <| .inr <| .inl ⟨rfl, h, rfl⟩

/-- An index of the field table, as the information words hold it. -/
theorem toNat_ofNat_index_lt (i : Fin 8) : (BitVec.ofNat 32 i.val).toNat < 8 := by
  rw [BitVec.toNat_ofNat]
  omega

theorem legalError_badOperand_nf {value : Word} (h : 8 < value.toNat) : LegalError (.badOperand (.nf value)) :=
  fun _ => .inr <| .inr <| .inr <| .inr <| .inr <| .inl ⟨rfl, .inl ⟨rfl, h⟩⟩

theorem legalError_badOperand_width (i : Fin 8) : LegalError (.badOperand (.width i.val)) :=
  fun _ => .inr <| .inr <| .inr <| .inr <| .inr <| .inl ⟨rfl, .inr (.inl ⟨rfl, toNat_ofNat_index_lt i⟩)⟩

theorem legalError_badOperand_len {value : Word} (h : 32 < value.toNat) : LegalError (.badOperand (.len value)) :=
  fun _ => .inr <| .inr <| .inr <| .inr <| .inr <| .inl ⟨rfl, .inr (.inr ⟨rfl, h⟩)⟩

theorem legalError_fieldRange (i : Fin 8) : LegalError (.fieldRange i.val) :=
  fun _ => .inr <| .inr <| .inr <| .inr <| .inr <| .inr ⟨rfl, toNat_ofNat_index_lt i, rfl⟩

/-- A computation that raises legal errors only. -/
def RaisesLegally {α : Type} (x : Except CmdError α) : Prop := ∀ e, x = .error e → LegalError e

theorem raisesLegally_ok {α : Type} (a : α) : RaisesLegally (.ok a) := fun _ h => nomatch h

theorem raisesLegally_error {α : Type} {e : CmdError} (h : LegalError e) : RaisesLegally (.error e : Except CmdError α) := by
  rintro _ ⟨⟩
  exact h

/-- Of two computations in a row the second needs to be looked at only after the first has answered. -/
theorem RaisesLegally.bind {α β : Type} {x : Except CmdError α} {f : α → Except CmdError β} (hx : RaisesLegally x)
    (hf : ∀ a, x = .ok a → RaisesLegally (f a)) : RaisesLegally (x.bind f) := by
  cases x with
  | error e => exact raisesLegally_error (hx e rfl)
  | ok a => exact hf a rfl

theorem RaisesLegally.map {α β : Type} {x : Except CmdError α} (hx : RaisesLegally x) (f : α → β) :
    RaisesLegally (x.map f) := by
  cases x with
  | error e => exact raisesLegally_error (hx e rfl)
  | ok a => exact raisesLegally_ok (f a)

/-! ## Which errors the operands and the functional layer give -/

theorem widthOperands_raisesLegally (s : State) : RaisesLegally (widthOperands s) := by
  intro e h
  by_cases hnf : s.nf.toNat ≤ 8
  · rw [widthOperands_of_nf_le hnf] at h
    obtain ⟨-, i, -, -, rfl, -, -⟩ := readWidths_error h
    exact legalError_badOperand_width i
  · rw [widthOperands_of_nf_gt (by omega)] at h
    cases h
    exact legalError_badOperand_nf (by omega)

theorem fieldOperands_raisesLegally (s : State) : RaisesLegally (fieldOperands s) := by
  cases hws : widthOperands s with
  | error e =>
    rw [fieldOperands_of_error hws]
    exact raisesLegally_error (widthOperands_raisesLegally s e hws)
  | ok ws =>
    rw [fieldOperands_of_widths hws]
    intro e h
    obtain ⟨-, p, -, -, rfl, -, -⟩ := readFields_error h
    exact legalError_fieldRange p.1

theorem readBuffer_raisesLegally (s : State) : RaisesLegally (readBuffer s) := by
  intro e h
  obtain ⟨hlen, rfl⟩ := readBuffer_error h
  exact legalError_badOperand_len hlen

theorem unpack_raisesLegally (b : List Byte) {ws : List Width} (h : totalBits ws ≤ 256) : RaisesLegally (unpack b ws) := by
  by_cases hshort : 8 * b.length < totalBits ws
  · rw [unpack_of_short hshort]
    exact raisesLegally_error (legalError_shortBuffer hshort h (by omega))
  · rw [unpack_of_enough (by omega)]
    exact raisesLegally_ok _

/-- Widths are read only when they are legal. -/
theorem widthsLegal_of_widthOperands {s : State} {ws : List (Fin 8 × Width)} (h : widthOperands s = .ok ws) :
    WidthsLegal s := by
  refine ⟨(fieldIndices_ok (widthOperands_ok h)).1, fun i hi => ?_⟩
  obtain ⟨p, hp, rfl⟩ := List.mem_map.mp (indices_of_widthOperands h ▸ mem_take_finRange.mpr hi)
  rw [← bits_of_widthOperands h p hp]
  exact ⟨p.2.pos, p.2.le⟩

/-- The widths that are read fill at most the buffer. -/
theorem totalBits_widthOperands_le {s : State} {ws : List (Fin 8 × Width)} (h : widthOperands s = .ok ws) :
    totalBits (ws.map Prod.snd) ≤ 256 :=
  totalBits_widthOperands h ▸ widthSum_le (widthsLegal_of_widthOperands h)

theorem unpackedValues_raisesLegally (s : State) : RaisesLegally (unpackedValues s) :=
  (widthOperands_raisesLegally s).bind fun _ hws => (readBuffer_raisesLegally s).bind fun b _ =>
    unpack_raisesLegally b (totalBits_widthOperands_le hws)

theorem linearCode_raisesLegally (f : GeoField) (a hi m d x : Int) : RaisesLegally (linearCode f a hi m d x) := by
  unfold linearCode
  split
  · exact raisesLegally_error (legalError_quantizationOverflow f)
  · exact raisesLegally_ok _

theorem qLat_raisesLegally (x : Int) : RaisesLegally (qLat x) :=
  qLat_eq_linearCode ▸ linearCode_raisesLegally _ _ _ _ _ x

theorem qLon_raisesLegally (x : Int) : RaisesLegally (qLon x) :=
  qLon_eq_linearCode ▸ linearCode_raisesLegally _ _ _ _ _ x

theorem qAlt_raisesLegally (x : Int) : RaisesLegally (qAlt x) :=
  qAlt_eq_linearCode ▸ linearCode_raisesLegally _ _ _ _ _ x

theorem fromGeo_raisesLegally (track : BitVec 16) (lat lon alt : Int) (spd hdg : BitVec 16) :
    RaisesLegally (fromGeo track lat lon alt spd hdg) := by
  unfold fromGeo
  split
  next e hlat => exact raisesLegally_error (qLat_raisesLegally lat e hlat)
  next =>
    split
    next e hlon => exact raisesLegally_error (qLon_raisesLegally lon e hlon)
    next =>
      split
      next e halt => exact raisesLegally_error (qAlt_raisesLegally alt e halt)
      next => exact raisesLegally_ok _

/-- `body_decode` is `unpack`, its values made into a report. -/
theorem bodyDecode_eq_map (layout : Layout) (b : List Byte) :
    bodyDecode layout b = (unpack b (layout.map fieldWidth)).map (reportOfValues layout) := by
  cases h : unpack b (layout.map fieldWidth) with
  | error e => exact bodyDecode_of_error h
  | ok vs => exact bodyDecode_of_values h

theorem bodyDecode_raisesLegally (b : List Byte) : RaisesLegally (bodyDecode airTrackLayout b) := by
  rw [bodyDecode_eq_map]
  exact (unpack_raisesLegally b (by decide)).map _

theorem encodedFrame_raisesLegally (tag : Byte) (r : Report) : RaisesLegally (encodedFrame tag r) := by
  rw [encodedFrame, entryOfTag_adsRegistry]
  by_cases htag : 0x32 = tag
  · rw [if_pos htag]
    exact raisesLegally_ok _
  · rw [if_neg htag]
    exact raisesLegally_error (legalError_unsupportedKind fun he => htag he.symm)

theorem envDecode_raisesLegally (bytes : List Byte) : RaisesLegally (envDecode adsRegistry bytes) := by
  cases bytes with
  | nil => exact raisesLegally_error (legalError_shortBuffer (by decide) (by decide) rfl)
  | cons tag body =>
    by_cases htag : tag = 0x32
    · subst htag
      rw [envDecode_of_airTrackTag]
      exact (bodyDecode_raisesLegally body).map _
    · rw [envDecode_of_tag_ne htag]
      exact raisesLegally_error (legalError_unsupportedKind htag)

/-! ## The form of every instruction -/

/-- The instruction computes a value and puts it into its registers. The error registers influence neither; the putting
keeps the buffer's canonical form; and where there is no value there is a legal error. -/
structure PutsOneValue {α : Type} (i : Instr) (value : State → Except CmdError α) (put : State → α → State) : Prop where
  exec_eq : ∀ s, exec i s = commit s ((value s).map (put s))
  value_setOutcome : ∀ s code a b, value (s.setOutcome code a b) = value s
  put_setOutcome : ∀ s x code a b, (put (s.setOutcome code a b) x).complete = (put s x).complete
  wf_put : ∀ s x, s.buf.wf = true → (put s x).buf.wf = true
  raisesLegally : ∀ s, RaisesLegally (value s)

theorem exec_msgAirtrack (r : Report) (s : State) :
    exec (.msgAirtrack r) s = .next (s.setMessage 0x32 r).complete := rfl

theorem exists_putsOneValue (i : Instr) :
    ∃ (α : Type) (value : State → Except CmdError α) (put : State → α → State), PutsOneValue i value put := by
  cases i with
  | nop =>
    exact ⟨Unit, fun _ => .ok (), fun s _ => s, exec_nop, fun _ _ _ _ => rfl, fun _ _ _ _ _ => rfl, fun _ _ h => h,
      fun _ => raisesLegally_ok _⟩
  | clr =>
    exact ⟨Unit, fun _ => .ok (), fun s _ => s.toReset, exec_clr, fun _ _ _ _ => rfl, fun _ _ _ _ _ => rfl,
      fun _ _ _ => Memory.wf_reset, fun _ => raisesLegally_ok _⟩
  | pack =>
    exact ⟨_, _, _, exec_pack, fun _ _ _ _ => fieldOperands_congr rfl fun _ _ => ⟨rfl, rfl⟩, fun _ _ _ _ _ => rfl,
      fun _ _ _ => Memory.wf_ofBytes _, fieldOperands_raisesLegally⟩
  | unpack =>
    exact ⟨_, _, _, exec_unpack,
      fun _ _ _ _ => unpackedValues_congr ⟨rfl, fun _ _ => rfl, rfl, fun _ _ => rfl⟩, fun _ _ _ _ _ => rfl,
      fun _ _ h => h, unpackedValues_raisesLegally⟩
  | qlat =>
    exact ⟨_, _, _, exec_qlat, fun _ _ _ _ => rfl, fun _ _ _ _ _ => rfl, fun _ _ h => h, fun _ => qLat_raisesLegally _⟩
  | qlon =>
    exact ⟨_, _, _, exec_qlon, fun _ _ _ _ => rfl, fun _ _ _ _ _ => rfl, fun _ _ h => h, fun _ => qLon_raisesLegally _⟩
  | qalt =>
    exact ⟨_, _, _, exec_qalt, fun _ _ _ _ => rfl, fun _ _ _ _ _ => rfl, fun _ _ h => h, fun _ => qAlt_raisesLegally _⟩
  | qtrk =>
    exact ⟨_, fun s => .ok s.gtrack, fun s g => { s with track := g, trkn := qTrk g }, fun _ => rfl,
      fun _ _ _ _ => rfl, fun _ _ _ _ _ => rfl, fun _ _ h => h, fun _ => raisesLegally_ok _⟩
  | fromgeo =>
    exact ⟨_, _, _, exec_fromgeo, fun _ _ _ _ => rfl, fun _ _ _ _ _ => rfl, fun _ _ h => h,
      fun _ => fromGeo_raisesLegally _ _ _ _ _ _⟩
  | benc =>
    exact ⟨_, fun s => .ok (bodyEncode airTrackLayout (reportRegs s)), State.setEncoded, fun _ => rfl,
      fun _ _ _ _ => rfl, fun _ _ _ _ _ => rfl, fun _ _ _ => Memory.wf_ofBytes _, fun _ => raisesLegally_ok _⟩
  | bdec =>
    exact ⟨_, _, _, exec_bdec, fun _ _ _ _ => rfl, fun _ _ _ _ _ => rfl, fun _ _ h => h,
      fun s => (readBuffer_raisesLegally s).bind fun b _ => bodyDecode_raisesLegally b⟩
  | menc =>
    exact ⟨_, _, _, exec_menc, fun _ _ _ _ => rfl, fun _ _ _ _ _ => rfl, fun _ _ _ => Memory.wf_ofBytes _,
      fun _ => encodedFrame_raisesLegally _ _⟩
  | mdec =>
    exact ⟨_, _, _, exec_mdec, fun _ _ _ _ => rfl, fun _ ⟨.airTrack, _⟩ _ _ _ => rfl, fun _ ⟨.airTrack, _⟩ h => h,
      fun s => (readBuffer_raisesLegally s).bind fun b _ => envDecode_raisesLegally b⟩
  | msgAirtrack r =>
    exact ⟨Unit, fun _ => .ok (), fun s _ => s.setMessage 0x32 r, exec_msgAirtrack r, fun _ _ _ _ => rfl,
      fun _ _ _ _ _ => rfl, fun _ _ h => h, fun _ => raisesLegally_ok _⟩

/-- What an instruction can do: it completes with a buffer in canonical form, if it had one, or it raises a legal error. -/
theorem exec_cases (i : Instr) (s : State) :
    (∃ u : State, exec i s = .next u.complete ∧ (s.buf.wf = true → u.buf.wf = true)) ∨
      ∃ e, exec i s = .next (s.raise e) ∧ LegalError e := by
  obtain ⟨α, value, put, form⟩ := exists_putsOneValue i
  rw [form.exec_eq]
  cases hvalue : value s with
  | ok x => exact .inl ⟨put s x, rfl, form.wf_put s x⟩
  | error e => exact .inr ⟨e, rfl, form.raisesLegally s e hvalue⟩

/-- Settles O13: an error is taken on the state before the command, and a completion clears the error registers. -/
theorem errorsChangeNothingElse : Obligations.ErrorsChangeNothingElse := by
  intro i s t h
  rcases exec_cases i s with ⟨u, hu, -⟩ | ⟨e, he, -⟩
  · obtain rfl : u.complete = t := Host.Outcome.next.inj (hu.symm.trans h)
    exact ⟨fun herr => absurd rfl herr, fun _ => ⟨rfl, rfl⟩⟩
  · obtain rfl : s.raise e = t := Host.Outcome.next.inj (he.symm.trans h)
    exact ⟨fun _ => rfl, fun herr => absurd herr (errorCode_ne_zero e)⟩

/-- Settles O14: the value does not depend on the error registers, and both ends of a command overwrite them. -/
theorem errorRegistersNeverInfluence : Obligations.ErrorRegistersNeverInfluence := by
  intro i s code a b
  obtain ⟨α, value, put, form⟩ := exists_putsOneValue i
  change exec i (s.setOutcome code a b) = exec i s
  rw [form.exec_eq, form.exec_eq, form.value_setOutcome]
  cases value s with
  | ok x => exact congrArg Host.Outcome.next (form.put_setOutcome s x code a b)
  | error e => rfl

/-- Settles O56: the message is put into `KIND` and the report registers, and the instruction completes. -/
theorem msgAirtrackCompletes : Obligations.MsgAirtrackCompletes := exec_msgAirtrack

/-! ## The steps -/

/-- The state with the next event taken from the list, which is `rest` without it. -/
def State.withPending (s : State) (rest : List HostEvent) : State := { s with pending := rest }

theorem step_of_pending_nil {s : State} (h : s.pending = []) : step s = .next s := by
  simp only [step, runNext, nextEvent, h]

theorem step_of_pending_cons {s : State} {e : HostEvent} {rest : List HostEvent} (h : s.pending = e :: rest) :
    step s = runEvent e (s.withPending rest) := by
  simp only [step, runNext, nextEvent, h]
  rfl

/-- A write to `CMD` executes the word. -/
theorem step_of_command {s : State} {c : Word} {rest : List HostEvent} (h : s.pending = .write 0x000 c :: rest) :
    step s = execute c (s.withPending rest) :=
  (step_of_pending_cons h).trans (hostWrite_cmd c (s.withPending rest))

theorem execute_of_decode_ok {c : Word} {i : Instr} (h : decode (.command c) = .ok i) (s : State) :
    execute c s = exec i s := by
  simp only [execute, h]

/-- Settles O8: executing a word that decodes is executing the command. -/
theorem stepRunsTheDecodedCommand : Obligations.StepRunsTheDecodedCommand :=
  fun s _ rest _ hpending hdecode =>
    (step_of_command hpending).trans (execute_of_decode_ok hdecode (s.withPending rest))

/-- Settles O9: `MDEC` on a frame puts the message that the frame decodes to, as the frame itself does. -/
theorem stepRunsTheFrameInTheBuffer : Obligations.StepRunsTheFrameInTheBuffer := by
  intro s _ i hpending hlen hdecode
  obtain ⟨r, rfl, hmessage⟩ := report_of_decode_frame hdecode
  have hmdec : decode (.command 0x00000041) = .ok .mdec := decode_encode .mdec
  rw [step_of_command hpending, execute_of_decode_ok hmdec]
  exact exec_mdec_of_report (readBuffer_of_len_le hlen) hmessage

/-- Settles O10: each event by the function that runs it. -/
theorem stepTakesTheOtherEvents : Obligations.StepTakesTheOtherEvents :=
  fun _ => ⟨step_of_pending_nil, fun _ _ => step_of_pending_cons, fun _ _ _ => step_of_pending_cons,
    fun _ hpending => ⟨_, step_of_pending_cons hpending, rfl, rfl⟩⟩

/-- What one event can do to the core. -/
inductive EventOutcome (s : State) : Host.Outcome State Fault Refusal → Prop where
  | command (i : Instr) : EventOutcome s (exec i s)
  | illegal (c : Word) (h : c ∉ commandWords) : EventOutcome s (.next (s.raise (.illegalCommand c)))
  | register (r : HostReg) (d : Word) : EventOutcome s (.next (writeHostReg s d r))
  | noEffect : EventOutcome s (.next s)
  | read (words : List Word) : EventOutcome s (.next { s with returned := words })
  | reset : EventOutcome s (.next s.toReset)

theorem execute_eventOutcome (c : Word) (s : State) : EventOutcome s (execute c s) := by
  by_cases hmem : c ∈ commandWords
  · obtain ⟨i, hdecode, -⟩ := (commandWordsDecodeExactly c).2 hmem
    rw [execute_of_decode_ok hdecode]
    exact .command i
  · rw [execute_of_decode_error (decode_command_of_not_mem hmem)]
    exact .illegal c hmem

theorem hostWrite_eventOutcome (offset : Nat) (d : Word) (s : State) : EventOutcome s (hostWrite offset d s) := by
  cases hreg : hostRegAt offset with
  | none =>
    simp only [hostWrite, hreg]
    exact .noEffect
  | some r =>
    obtain rfl := hostRegAt_eq_some.mp hreg
    by_cases hcmd : r = .cmd
    · subst hcmd
      rw [hostWrite_cmd]
      exact execute_eventOutcome d s
    · rw [hostWrite_of_ne_cmd hcmd]
      exact .register r d

theorem runEvent_eventOutcome (e : HostEvent) (s : State) : EventOutcome s (runEvent e s) := by
  cases e with
  | write offset d => exact hostWrite_eventOutcome offset d s
  | read offset => exact .read _
  | reset => exact .reset

/-- Every event has a next state, and it keeps the invariant. -/
theorem EventOutcome.next_keeps_machineInv {s : State} {o : Host.Outcome State Fault Refusal} (h : EventOutcome s o) :
    ∃ t, o = .next t ∧ (MachineInv s → MachineInv t) := by
  cases h with
  | command i =>
    rcases exec_cases i s with ⟨u, hu, hwf⟩ | ⟨e, he, hlegal⟩
    · exact ⟨_, hu, fun ⟨hbuf, _⟩ => ⟨hwf hbuf, .inl ⟨rfl, rfl, rfl⟩⟩⟩
    · exact ⟨_, he, fun ⟨hbuf, _⟩ => ⟨hbuf, hlegal s⟩⟩
  | illegal c hc => exact ⟨_, rfl, fun ⟨hbuf, _⟩ => ⟨hbuf, legalError_illegalCommand hc s⟩⟩
  | register r d =>
    refine ⟨_, rfl, fun ⟨hbuf, hrecord⟩ => ?_⟩
    cases r with
    | buf i => exact ⟨Memory.wf_write hbuf i _, hrecord⟩
    | _ => exact ⟨hbuf, hrecord⟩
  | noEffect => exact ⟨s, rfl, id⟩
  | read words => exact ⟨_, rfl, id⟩
  | reset => exact ⟨_, rfl, fun _ => ⟨Memory.wf_reset, .inl ⟨rfl, rfl, rfl⟩⟩⟩

/-- Every step has a next state, and it keeps the invariant. -/
theorem step_next_keeps_machineInv (s : State) : ∃ t, step s = .next t ∧ (MachineInv s → MachineInv t) := by
  cases hpending : s.pending with
  | nil => exact ⟨s, step_of_pending_nil hpending, id⟩
  | cons e rest =>
    rw [step_of_pending_cons hpending]
    exact (runEvent_eventOutcome e (s.withPending rest)).next_keeps_machineInv

/-- Settles O16: what each event can do keeps the invariant. -/
theorem everyStepKeepsMachineInv : Obligations.EveryStepKeepsMachineInv := by
  intro s t hinv h
  obtain ⟨u, hu, hkeeps⟩ := step_next_keeps_machineInv s
  obtain rfl : u = t := Host.Outcome.next.inj (hu.symm.trans h)
  exact hkeeps hinv

/-- Settles O17: an empty buffer is in canonical form, and zeros are the record of a completion. -/
theorem machineInvAtReset : Obligations.MachineInvAtReset := ⟨Memory.wf_reset, .inl ⟨rfl, rfl, rfl⟩⟩

/-- A run goes on from the state its first step answers. -/
theorem run_succ_of_next (M : Host.Core) {s t : M.State} (h : M.step s = .next t) (k : Nat) :
    M.run (k + 1) s = M.run k t := by
  simp only [Host.Core.run, h]

/-- Settles O11, by induction on the number of steps: every step has a next state. -/
theorem everyRunHasANextState : Obligations.EveryRunHasANextState := by
  intro k
  induction k with
  | zero => exact fun s => ⟨s, rfl⟩
  | succ k ih =>
    intro s
    obtain ⟨t, ht, -⟩ := step_next_keeps_machineInv s
    exact (run_succ_of_next core ht k).symm ▸ ih t

end Sys2Proof.Machine
end

-- ==== Proofs: a field one byte at a time ====
section
/-!
PROOF. 40_bitpacker.md R131. One iteration of either loop moves the piece of the field that lies in one byte, which is what
`put_field` or `get_field` does with a shorter field; a field written or read in two pieces is written or read whole. The
iterations needed follow from one bound: the bits still to be moved and those before them in the byte lie in as many
bytes as iterations are left.
-/

namespace Sys2Proof.Machine

/-! ## One byte -/

/-- The bits of the mask that keeps a byte outside the `n` bits from `shift` on. -/
theorem testBit_keepMask {shift n : Nat} (h : shift + n ≤ 8) (j : Nat) :
    (0xFF - (2 ^ n - 1) * 2 ^ shift).testBit j = (decide (j < 8) && !decide (shift ≤ j ∧ j < shift + n)) := by
  have hpos := Nat.two_pow_pos shift
  have hle : 2 ^ (shift + n) ≤ 2 ^ 8 := Nat.pow_le_pow_right (by decide) h
  have hmask : (2 ^ n - 1) * 2 ^ shift < 2 ^ 8 := by
    rw [Nat.sub_mul, one_mul, ← Nat.pow_add, Nat.add_comm n]
    omega
  rw [show 0xFF - (2 ^ n - 1) * 2 ^ shift = 2 ^ 8 - ((2 ^ n - 1) * 2 ^ shift + 1) by omega,
    Nat.testBit_two_pow_sub_succ hmask, Nat.testBit_mul_two_pow, Nat.testBit_two_pow_sub_one,
    ← Bool.decide_and, decide_eq_decide.mpr (show shift ≤ j ∧ j - shift < n ↔ shift ≤ j ∧ j < shift + n by omega)]

/-- A byte in which the `n` bits from `shift` on are replaced by those of `piece`. -/
theorem getLsbD_replacePiece (byte : Byte) {piece shift n : Nat} (h : shift + n ≤ 8) (hpiece : piece < 2 ^ n) {j : Nat}
    (hj : j < 8) :
    (BitVec.ofNat 8 ((byte.toNat &&& (0xFF - (2 ^ n - 1) * 2 ^ shift)) + piece * 2 ^ shift)).getLsbD j =
      if shift ≤ j ∧ j < shift + n then piece.testBit (j - shift) else byte.getLsbD j := by
  have hkeep : ∀ i, i < 8 → (BitVec.ofNat 8 (byte.toNat &&& (0xFF - (2 ^ n - 1) * 2 ^ shift))).getLsbD i =
      (byte.getLsbD i && !decide (shift ≤ i ∧ i < shift + n)) := fun i hi => by
    rw [BitVec.getLsbD_ofNat, Nat.testBit_and, testBit_keepMask h, BitVec.testBit_toNat, decide_eq_true hi,
      Bool.true_and, Bool.true_and]
  have hput : ∀ i, i < 8 → (BitVec.ofNat 8 (piece * 2 ^ shift)).getLsbD i =
      (decide (shift ≤ i ∧ i < shift + n) && piece.testBit (i - shift)) := fun i hi => by
    rw [BitVec.getLsbD_ofNat, Nat.testBit_mul_two_pow, decide_eq_true hi, Bool.true_and]
    by_cases hin : i - shift < n
    · rw [decide_eq_decide.mpr (show shift ≤ i ↔ shift ≤ i ∧ i < shift + n by omega)]
    · have hpow : 2 ^ n ≤ 2 ^ (i - shift) := Nat.pow_le_pow_right (by decide) (by omega)
      rw [Nat.testBit_lt_two_pow (Nat.lt_of_lt_of_le hpiece hpow), Bool.and_false, Bool.and_false]
  have hdisjoint : BitVec.ofNat 8 (byte.toNat &&& (0xFF - (2 ^ n - 1) * 2 ^ shift)) &&&
      BitVec.ofNat 8 (piece * 2 ^ shift) = 0#8 := by
    refine BitVec.eq_of_getLsbD_eq fun i hi => ?_
    rw [BitVec.getLsbD_and, hkeep i hi, hput i hi, BitVec.getLsbD_zero]
    cases decide (shift ≤ i ∧ i < shift + n) <;> simp
  rw [BitVec.ofNat_add, BitVec.add_eq_or_of_and_eq_zero _ _ hdisjoint, BitVec.getLsbD_or, hkeep j hj, hput j hj]
  split
  case isTrue hin => simp [hin]
  case isFalse hout => simp [hout]

/-! ## One iteration -/

/-- Stream bits after one byte is replaced. -/
theorem streamBit_modify (b : List Byte) {q : Nat} (f : Byte → Byte) (hq : q < b.length) (k : Nat) :
    streamBit (b.modify q f) k = if k / 8 = q then (f (b.getD q 0)).getLsbD (7 - k % 8) else streamBit b k := by
  simp only [streamBit, List.getD_eq_getElem?_getD]
  by_cases hk : k / 8 = q
  · subst hk
    rw [if_pos rfl, List.getElem?_modify_eq, List.getElem?_eq_getElem hq]
    rfl
  · rw [if_neg hk, List.getElem?_modify_ne _ _ fun h => hk h.symm]

/-- One iteration of the writer is `put_field` with the piece that lies in the first byte. -/
theorem modify_piece_eq_putField (b : List Byte) {c v n : Nat} (hn : n ≤ 8 - c % 8) (hroom : c + n ≤ 8 * b.length)
    (hc : c < 8 * b.length) :
    (b.modify (c / 8) fun byte => BitVec.ofNat 8
        ((byte.toNat &&& (0xFF - (2 ^ n - 1) * 2 ^ (8 - c % 8 - n))) + v % 2 ^ n * 2 ^ (8 - c % 8 - n))) =
      putField b c v n := by
  refine bytes_ext (by simp) fun k => ?_
  rw [streamBit_modify b _ (by omega), streamBit_putField b c v hroom]
  by_cases hk : k / 8 = c / 8
  · rw [if_pos hk, getLsbD_replacePiece _ (by omega) (Nat.mod_lt _ (Nat.two_pow_pos n)) (by omega)]
    by_cases hin : c ≤ k ∧ k < c + n
    · rw [if_pos (by omega), if_pos hin, Nat.testBit_mod_two_pow, decide_eq_true (by omega), Bool.true_and]
      congr 1
      omega
    · rw [if_neg (by omega), if_neg hin, streamBit, hk]
  · rw [if_neg hk, if_neg (by omega)]

/-- One iteration of the reader is `get_field` with the piece that lies in the first byte. -/
theorem piece_eq_getField (b : List Byte) {c n : Nat} (hn : n ≤ 8 - c % 8) :
    ((b.getD (c / 8) 0).toNat >>> (8 - c % 8 - n)) &&& (2 ^ n - 1) = getField b c n := by
  rw [Nat.and_two_pow_sub_one_eq_mod]
  refine (getField_eq (Nat.mod_lt _ (Nat.two_pow_pos n)) fun t ht => ?_).symm
  rw [Nat.testBit_mod_two_pow, Nat.testBit_shiftRight, BitVec.testBit_toNat, decide_eq_true (by omega), Bool.true_and,
    streamBit, show (c + t) / 8 = c / 8 by omega]
  congr 1
  omega

/-- Writing `w + w'` bits is writing the `w` more significant ones and then the `w'` others after them. -/
theorem putField_add (b : List Byte) (c v : Nat) {w w' : Nat} (h : c + (w + w') ≤ 8 * b.length) :
    putField b c v (w + w') = putField (putField b c (v >>> w') w) (c + w) v w' := by
  refine bytes_ext (by simp) fun k => ?_
  rw [streamBit_putField _ _ _ h, streamBit_putField _ _ _ (by rw [length_putField]; omega),
    streamBit_putField _ _ _ (by omega), Nat.testBit_shiftRight]
  by_cases hlow : c + w ≤ k ∧ k < c + w + w'
  · rw [if_pos (by omega), if_pos hlow]
    congr 1
    omega
  · rw [if_neg hlow]
    by_cases hhigh : c ≤ k ∧ k < c + w
    · rw [if_pos (by omega), if_pos hhigh]
      congr 1
      omega
    · rw [if_neg (by omega), if_neg hhigh]

/-! ## The loops -/

/-- An iteration of the writer puts a piece of `n` bits, as many as the byte has room for. -/
theorem putFieldBytesLoop_succ (fuel : Nat) (b : List Byte) {c v rem n : Nat} (hn : n = min (8 - c % 8) rem)
    (hrem : rem ≠ 0) (hroom : c + rem ≤ 8 * b.length) :
    putFieldBytesLoop (fuel + 1) b c v rem =
      putFieldBytesLoop fuel (putField b c (v >>> (rem - n)) n) (c + n) v (rem - n) := by
  rw [← modify_piece_eq_putField b (by omega) (by omega) (by omega), hn, putFieldBytesLoop, if_neg hrem]

/-- An iteration of the reader gets such a piece. -/
theorem getFieldBytesLoop_succ (fuel : Nat) (b : List Byte) {c v rem n : Nat} (hn : n = min (8 - c % 8) rem)
    (hrem : rem ≠ 0) :
    getFieldBytesLoop (fuel + 1) b c v rem =
      getFieldBytesLoop fuel b (c + n) (v * 2 ^ n + getField b c n) (rem - n) := by
  rw [← piece_eq_getField b (by omega), hn, getFieldBytesLoop, if_neg hrem]

/-- The writer with enough iterations left. -/
theorem putFieldBytesLoop_eq_putField {fuel : Nat} (b : List Byte) {c : Nat} (v : Nat) {rem : Nat}
    (hroom : c + rem ≤ 8 * b.length) (hfuel : rem ≤ 8 * fuel - c % 8) :
    putFieldBytesLoop fuel b c v rem = putField b c v rem := by
  induction fuel generalizing b c rem with
  | zero =>
    obtain rfl : rem = 0 := by omega
    rfl
  | succ fuel ih =>
    by_cases hrem : rem = 0
    · subst hrem
      rfl
    · obtain ⟨n, hn⟩ : ∃ n, n = min (8 - c % 8) rem := ⟨_, rfl⟩
      rw [putFieldBytesLoop_succ fuel b hn hrem hroom, ih _ (by rw [length_putField]; omega) (by omega),
        ← putField_add b c v (by omega), show n + (rem - n) = rem by omega]

/-- The reader with enough iterations left: the bits read so far stand above those still to be read. -/
theorem getFieldBytesLoop_eq_getField {fuel : Nat} (b : List Byte) {c : Nat} (v : Nat) {rem : Nat}
    (hfuel : rem ≤ 8 * fuel - c % 8) :
    getFieldBytesLoop fuel b c v rem = v * 2 ^ rem + getField b c rem := by
  induction fuel generalizing c v rem with
  | zero =>
    obtain rfl : rem = 0 := by omega
    simp [getFieldBytesLoop]
  | succ fuel ih =>
    by_cases hrem : rem = 0
    · simp [getFieldBytesLoop, hrem]
    · obtain ⟨n, hn⟩ : ∃ n, n = min (8 - c % 8) rem := ⟨_, rfl⟩
      have hsplit : rem = n + (rem - n) := by omega
      rw [getFieldBytesLoop_succ fuel b hn hrem, ih _ (by omega)]
      conv_rhs => rw [hsplit, getField_add, Nat.pow_add]
      ring

/-- Settles O26: a field of at most 32 bits lies in at most five bytes, and the iterations counted are those bytes. -/
theorem byteAtATimeFormsAgree : Obligations.ByteAtATimeFormsAgree := by
  intro b c v w hroom hpos hmax _
  have hcount : w ≤ 8 * ((c + w - 1) / 8 - c / 8 + 1) - c % 8 := by omega
  have hfive : w ≤ 8 * 5 - c % 8 := by omega
  have hread : ∀ {fuel}, w ≤ 8 * fuel - c % 8 → getFieldBytesLoop fuel b c 0 w = getField b c w := fun hfuel => by
    rw [getFieldBytesLoop_eq_getField b 0 hfuel, Nat.zero_mul, Nat.zero_add]
  exact ⟨by omega, by omega, putFieldBytesLoop_eq_putField b v hroom hcount,
    putFieldBytesLoop_eq_putField b v hroom hfive, hread hcount, hread hfive⟩

end Sys2Proof.Machine
end

-- ==== Proofs: the 64-bit datapath and FROMGEO ====
section
/-!
PROOF. 41_quantization.md R165 and 42_airtrack_body.md R181. In the domains the sum that a quantizer divides is far below
2^64, so machine words compute it without loss; and `FROMGEO` is `from_geo` on the geodetic registers, whose fields are
what the four quantizer commands write one after another.
-/

namespace Sys2Proof.Machine

/-! ## The datapath -/

/-- Multiplying, adding and dividing in 64-bit words is exact as long as the sum fits. -/
theorem toNat_datapath {y : Int} {m h d : Nat} (hy : 0 ≤ y) (hfits : y * m + h < 2 ^ 64) (hd : d < 2 ^ 64) :
    (((BitVec.ofInt 64 y * BitVec.ofNat 64 m + BitVec.ofNat 64 h) / BitVec.ofNat 64 d).toNat : Int) =
      (y * m + h) / d := by
  lift y to Nat using hy
  have hsum : y * m + h < 2 ^ 64 := by exact_mod_cast hfits
  rw [BitVec.ofInt_natCast, ← BitVec.ofNat_mul, ← BitVec.ofNat_add, BitVec.toNat_udiv, BitVec.toNat_ofNat,
    BitVec.toNat_ofNat, Nat.mod_eq_of_lt hsum, Nat.mod_eq_of_lt hd]
  push_cast
  rfl

/-- Settles O34: the codes as one sum and one division, and the largest sum at the upper end of each domain. -/
theorem sixtyFourBitDatapathSuffices : Obligations.SixtyFourBitDatapathSuffices := by
  obtain ⟨hlatitude, -, hlongitude, -, haltitude, -⟩ := quantizersRoundToTheNearestCode
  refine ⟨fun x c hx => ?latitude, fun x c hx => ?longitude, fun x c hx => ?altitude⟩
  case latitude =>
    obtain ⟨⟨hlo, hhi⟩, -⟩ := (hlatitude x c).mp hx
    have hc := Except.ok.inj ((qLat_of_inside hlo hhi).symm.trans hx)
    refine ⟨by omega, ?_⟩
    rw [← hc]
    exact toNat_datapath (m := 524287) (h := 900000000) (d := 1800000000) (by omega) (by omega) (by decide)
  case longitude =>
    obtain ⟨⟨hlo, hhi⟩, -⟩ := (hlongitude x c).mp hx
    have hc := Except.ok.inj ((qLon_of_inside hlo hhi).symm.trans hx)
    refine ⟨by omega, ?_⟩
    rw [← hc]
    exact toNat_datapath (m := 524287) (h := 1800000000) (d := 3600000000) (by omega) (by omega) (by decide)
  case altitude =>
    obtain ⟨⟨hlo, hhi⟩, -⟩ := (haltitude x c).mp hx
    have hc := Except.ok.inj ((qAlt_of_inside hlo hhi).symm.trans hx)
    refine ⟨by omega, ?_⟩
    rw [← hc]
    exact toNat_datapath (m := 328084) (h := 1250000000) (d := 2500000000) (by omega) (by omega) (by decide)

/-! ## `FROMGEO` -/

theorem exec_fromgeo_of_error {s : State} {e : CmdError} (h : geoReport s = .error e) :
    exec .fromgeo s = .next (s.raise e) := by
  rw [exec_fromgeo, h]
  rfl

theorem exec_fromgeo_of_report {s : State} {r : Report} (h : geoReport s = .ok r) :
    exec .fromgeo s = .next (s.setReport r).complete := by
  rw [exec_fromgeo, h]
  rfl

/-- Settles O40: the report that `from_geo` builds, put into the report registers. -/
theorem fromgeoCompletes : Obligations.FromgeoCompletes := by
  intro s hlat hlat' hlon hlon' halt halt'
  obtain ⟨hreport, -⟩ := fromGeoBuildsTheReport s.gtrack (signed32 s.glat) (signed32 s.glon) (signed32 s.galt) s.gspd s.ghdg
  exact exec_fromgeo_of_report (hreport hlat hlat' hlon hlon' halt halt')

/-- Settles O41: the first overflow that `from_geo` meets, taken as an exception. -/
theorem fromgeoRaisesTheFirstOverflow : Obligations.FromgeoRaisesTheFirstOverflow := by
  intro s
  obtain ⟨-, hlatitude, hlongitude, haltitude⟩ :=
    fromGeoBuildsTheReport s.gtrack (signed32 s.glat) (signed32 s.glon) (signed32 s.galt) s.gspd s.ghdg
  exact ⟨fun hlat => exec_fromgeo_of_error (hlatitude hlat),
    fun hlat hlat' hlon => exec_fromgeo_of_error (hlongitude hlat hlat' hlon),
    fun hlat hlat' hlon hlon' halt => exec_fromgeo_of_error (haltitude hlat hlat' hlon hlon' halt)⟩

/-- A command that puts one computed value and completes had a value, and has put it. -/
theorem value_of_commit_completes {α : Type} {s t : State} {value : Except CmdError α} {put : α → State}
    (h : commit s (value.map put) = .next t) (herr : t.err = 0) : ∃ x, value = .ok x ∧ t = (put x).complete := by
  cases value with
  | ok x => exact ⟨x, rfl, (Host.Outcome.next.inj h).symm⟩
  | error e =>
    cases h
    exact absurd herr (errorCode_ne_zero e)

/-- Settles O42: each quantizer command leaves the geodetic registers as they were, so the codes are those of
`from_geo`. -/
theorem fromgeoIsTheSeparateCommands : Obligations.FromgeoIsTheSeparateCommands := by
  intro s s1 s2 s3 s4 hlat hlon halt htrk herr1 herr2 herr3
  obtain ⟨a, ha, rfl⟩ := value_of_commit_completes ((exec_qlat s).symm.trans hlat) herr1
  obtain ⟨o, ho, rfl⟩ := value_of_commit_completes ((exec_qlon _).symm.trans hlon) herr2
  obtain ⟨h, hh, rfl⟩ := value_of_commit_completes ((exec_qalt _).symm.trans halt) herr3
  cases htrk
  have hreport : geoReport s = _ := fromGeo_of_codes ha ho hh
  rw [exec_fromgeo_of_report hreport]
  rfl

end Sys2Proof.Machine
end

-- ==== Proofs: a new kind in the registry ====
section
/-!
PROOF. 43_envelope.md R215. An entry added behind the others is met by a look-up only when no other entry answers, so the
two functions of the envelope, which use nothing but the look-ups, are as before under every other tag and kind.
-/

namespace Sys2Proof.Machine

section Registry

variable {Kind : Type} {Payload : Kind → Type} {reg : Registry Payload} {e : KindEntry Payload}

/-- `env_decode` uses of the registry only what it has under the tag. -/
theorem envDecode_congr {reg' : Registry Payload} {tag : Byte} (h : entryOfTag reg tag = entryOfTag reg' tag)
    (body : List Byte) : envDecode reg (tag :: body) = envDecode reg' (tag :: body) := by
  cases hentry : entryOfTag reg' tag with
  | none => rw [envDecode_of_none hentry, envDecode_of_none (h.trans hentry)]
  | some a => rw [envDecode_of_some hentry, envDecode_of_some (h.trans hentry)]

theorem entryOfTag_append_other {tag : Byte} (h : tag ≠ e.tag) : entryOfTag (reg ++ [e]) tag = entryOfTag reg tag := by
  rw [entryOfTag_append, if_neg h.symm, Option.or_none]

theorem entryOfTag_append_new (h : entryOfTag reg e.tag = none) : entryOfTag (reg ++ [e]) e.tag = some e := by
  rw [entryOfTag_append, h, if_pos rfl, Option.none_or]

variable [DecidableEq Kind]

theorem codecOfKind_append_registered {kind : Kind} {c : Byte × Codec (Payload kind)}
    (h : codecOfKind reg kind = some c) : codecOfKind (reg ++ [e]) kind = some c := by
  rw [codecOfKind_append, h, Option.some_or]

theorem codecOfKind_append_new (h : codecOfKind reg e.kind = none) :
    codecOfKind (reg ++ [e]) e.kind = some (e.tag, e.codec) := by
  rw [codecOfKind_append, h, Option.none_or, codecOfKind_singleton]

/-- With the codec found for its kind, a message is registered and encoded with it. -/
theorem exists_envEncode_eq {m : MessageOf Payload} {c : Byte × Codec (Payload m.kind)}
    (h : codecOfKind reg m.kind = some c) :
    ∃ hreg : Registered reg m.kind, envEncode reg m hreg = c.1 :: c.2.encode m.payload := by
  have hreg : Registered reg m.kind := by rw [Registered, h]; rfl
  exact ⟨hreg, envEncode_eq hreg h⟩

end Registry

/-- Settles O55: the look-ups of an old tag or kind find what they found before, those of the new one the new entry. -/
theorem newKindsLeaveOldKindsAlone : Obligations.NewKindsLeaveOldKindsAlone := by
  intro Kind _ Payload reg e htag hkind
  refine ⟨fun tag body hne => envDecode_congr (entryOfTag_append_other hne) body, fun _ hm => ?old,
    envDecode_of_some (entryOfTag_append_new htag), fun p => ?new⟩
  case old =>
    obtain ⟨c, hc⟩ := Option.isSome_iff_exists.mp hm
    rw [envEncode_eq hm hc]
    exact exists_envEncode_eq (codecOfKind_append_registered hc)
  case new => exact exists_envEncode_eq (m := ⟨e.kind, p⟩) (codecOfKind_append_new hkind)

end Sys2Proof.Machine
end

-- ==== Proofs: UNPACK after PACK ====
section
/-!
PROOF. 40_bitpacker.md R130 on the registers (70_reset_and_hazards.md R294). `PACK` leaves the field table as it is and the
packed fields below `LEN`, so `UNPACK` reads with the same widths the values that stand in the table already.
-/

namespace Sys2Proof.Machine

/-- Fields are read with widths that are read. -/
theorem widths_of_fieldOperands {s : State} {fs : List BitField} (h : fieldOperands s = .ok fs) :
    ∃ ws, widthOperands s = .ok ws ∧ readFields s ws = .ok fs := by
  cases hws : widthOperands s with
  | error e => rw [fieldOperands_of_error hws] at h; cases h
  | ok ws => exact ⟨ws, rfl, fieldOperands_of_widths hws ▸ h⟩

/-- The values that are read are the value registers below `NF`. -/
theorem map_value_readFields {s : State} {ws : List (Fin 8 × Width)} {fs : List BitField}
    (hws : widthOperands s = .ok ws) (hfs : readFields s ws = .ok fs) :
    fs.map (·.value) = ((List.finRange 8).take s.nf.toNat).map fun i => (s.v[i]).toNat := by
  rw [(readFields_ok hfs).2, ← indices_of_widthOperands hws, List.map_map]
  rfl

/-- The values that `UNPACK` computes after a `PACK` are those that `PACK` has read. -/
theorem unpackedValues_after_pack {s : State} {fs : List BitField} (h : fieldOperands s = .ok fs) :
    unpackedValues (s.setEncoded (pack fs)).complete = .ok (fs.map (·.value)) := by
  obtain ⟨ws, hws, hfs⟩ := widths_of_fieldOperands h
  have hwidth : fs.map (·.width) = ws.map Prod.snd := (readFields_ok hfs).1
  have hlength : (pack fs).length ≤ 32 := by
    have htotal := totalBits_widthOperands_le hws
    rw [length_pack, hwidth, bytesFor]
    omega
  have hws' : widthOperands (s.setEncoded (pack fs)).complete = .ok ws :=
    (widthOperands_congr (s := (s.setEncoded (pack fs)).complete) (s' := s) rfl fun _ _ => rfl).trans hws
  have hunpack := packAndUnpackRoundTrip.1 fs []
  rw [List.append_nil, hwidth] at hunpack
  rw [unpackedValues, hws', readBuffer_setEncoded s hlength]
  exact hunpack

/-- Writing the value registers below `NF` with what they hold changes nothing. -/
theorem setFieldValues_own (s : State) :
    s.setFieldValues (((List.finRange 8).take s.nf.toNat).map fun i => (s.v[i]).toNat) = s := by
  have hv : (s.setFieldValues (((List.finRange 8).take s.nf.toNat).map fun i => (s.v[i]).toNat)).v = s.v := by
    refine Vector.ext fun i hi => ?_
    refine (State.setFieldValues_v_get s _ ⟨i, hi⟩).trans ?_
    by_cases hbelow : i < s.nf.toNat
    · simp [hbelow, hi]
    · simp [hbelow]
  exact congrArg (fun v => { s with v := v }) hv

/-- Settles O30: the values unpacked are the values that stand in the table. -/
theorem unpackAfterPackChangesNothing : Obligations.UnpackAfterPackChangesNothing := by
  intro s t h herr
  obtain ⟨fs, hfields, rfl⟩ := value_of_commit_completes ((exec_pack s).symm.trans h) herr
  obtain ⟨ws, hws, hfs⟩ := widths_of_fieldOperands hfields
  have hown := congrArg State.complete (setFieldValues_own (s.setEncoded (pack fs)).complete)
  rw [exec_unpack_of_values (unpackedValues_after_pack hfields), map_value_readFields hws hfs]
  exact congrArg Host.Outcome.next hown

end Sys2Proof.Machine
end
